-- ==== Sys2Proof/Word.lean ====
section
/-! DEFINITION. The words of the machine: the 64-bit register and buffer entry (00_scope.md R6, `XW`), the byte
of the model's own serial form of a transaction, and one bus transaction (30_encoding.md R58). -/
namespace Sys2Proof

/-- A register value or a buffer entry: 64 bits, unsigned (00_scope.md R6, R8). -/
abbrev Word := BitVec 64

/-- A byte of the serial form of a transaction (log entry 8); nothing inside the block is a byte. -/
abbrev Byte := BitVec 8

/-- One host bus transaction (30_encoding.md R58): `RW`, `OFFSET` and, for a write, `WDATA`. -/
structure Transaction where
  /-- `RW`: false = read, true = write. -/
  isWrite : Bool
  /-- `OFFSET`: byte offset in the 4096-byte register window. -/
  offset : BitVec 12
  /-- `WDATA`: the write data; carried by writes only, not looked at in a read. -/
  wdata : Word
deriving DecidableEq, Repr

end Sys2Proof
end

