-- ==== Sys2Proof/Syntax.lean ====
section
/-! DEFINITION. The operations of the block: one constructor per row of spec/opcode_table.json (30_encoding.md R62).
A write carries the whole `WDATA` (R60), also where the operation ignores it. -/
namespace Sys2Proof

/-- A host transaction, decoded. -/
inductive Instr where
  /-- `RD_CTRL`, slot 0x000 (40_register_access.md R70). -/
  | rdCtrl
  /-- `RD_STATUS`, slot 0x008 (40_register_access.md R71). -/
  | rdStatus
  /-- `RD_CFG`, slot 0x010 (40_register_access.md R73). -/
  | rdCfg
  /-- `RD_BITS_IN`, slot 0x018 (40_register_access.md R75). -/
  | rdBitsIn
  /-- `RD_BITS_OUT`, slot 0x020 (40_register_access.md R77). -/
  | rdBitsOut
  /-- `RD_BITS_LIMIT`, slot 0x028 (40_register_access.md R79). -/
  | rdBitsLimit
  /-- `RD_SRC_LEN`, slot 0x030 (40_register_access.md R81). -/
  | rdSrcLen
  /-- `RD_OUT_LEN`, slot 0x038 (40_register_access.md R83). -/
  | rdOutLen
  /-- `RD_SRC_IDX`, slot 0x040 (40_register_access.md R85). -/
  | rdSrcIdx
  /-- `RD_SRC_DATA`, slot 0x048 (40_register_access.md R87). -/
  | rdSrcData
  /-- `RD_DST_IDX`, slot 0x050 (40_register_access.md R89). -/
  | rdDstIdx
  /-- `RD_DST_DATA`, slot 0x058 (40_register_access.md R91). -/
  | rdDstData
  /-- `RD_CAPS`, slot 0x060 (40_register_access.md R93). -/
  | rdCaps
  /-- `RD_RSVD` of a slot 0x068 to 0xFF8; `slot` is `OFFSET >> 3` (40_register_access.md R95). -/
  | rdRsvd (slot : BitVec 9)
  /-- `WR_CTRL`, slot 0x000 (41_repack_command.md R97). -/
  | wrCtrl (wdata : Word)
  /-- `WR_STATUS`, slot 0x008 (40_register_access.md R72). -/
  | wrStatus (wdata : Word)
  /-- `WR_CFG`, slot 0x010 (40_register_access.md R74). -/
  | wrCfg (wdata : Word)
  /-- `WR_BITS_IN`, slot 0x018 (40_register_access.md R76). -/
  | wrBitsIn (wdata : Word)
  /-- `WR_BITS_OUT`, slot 0x020 (40_register_access.md R78). -/
  | wrBitsOut (wdata : Word)
  /-- `WR_BITS_LIMIT`, slot 0x028 (40_register_access.md R80). -/
  | wrBitsLimit (wdata : Word)
  /-- `WR_SRC_LEN`, slot 0x030 (40_register_access.md R82). -/
  | wrSrcLen (wdata : Word)
  /-- `WR_OUT_LEN`, slot 0x038 (40_register_access.md R84). -/
  | wrOutLen (wdata : Word)
  /-- `WR_SRC_IDX`, slot 0x040 (40_register_access.md R86). -/
  | wrSrcIdx (wdata : Word)
  /-- `WR_SRC_DATA`, slot 0x048 (40_register_access.md R88). -/
  | wrSrcData (wdata : Word)
  /-- `WR_DST_IDX`, slot 0x050 (40_register_access.md R90). -/
  | wrDstIdx (wdata : Word)
  /-- `WR_DST_DATA`, slot 0x058 (40_register_access.md R92). -/
  | wrDstData (wdata : Word)
  /-- `WR_CAPS`, slot 0x060 (40_register_access.md R94). -/
  | wrCaps (wdata : Word)
  /-- `WR_RSVD` of a slot 0x068 to 0xFF8 (40_register_access.md R96). -/
  | wrRsvd (slot : BitVec 9) (wdata : Word)
deriving DecidableEq, Repr

end Sys2Proof
end

