-- ==== Sys2Proof/WellFormed.lean ====
section
/-! DEFINITION. When a term of `Instr` stands for a transaction: the two reserved rows are the catch-alls of
30_encoding.md R62, so their slot is one that no named row has. -/
namespace Sys2Proof

/-- The number of named slots: 0x000 to 0x060 in steps of 8 (30_encoding.md R62). -/
def namedSlots : Nat := 13

/-- A slot of the reserved space: `SEL[11:3] << 3` is 0x068 or above (40_register_access.md R95, R96). -/
def reservedSlot (slot : BitVec 9) : Bool := decide (namedSlots ≤ slot.toNat)

/-- The well-formed instructions: a reserved row names a reserved slot; every other term is well formed. -/
def Instr.wellFormed : Instr → Bool
  | .rdCtrl => true
  | .rdStatus => true
  | .rdCfg => true
  | .rdBitsIn => true
  | .rdBitsOut => true
  | .rdBitsLimit => true
  | .rdSrcLen => true
  | .rdOutLen => true
  | .rdSrcIdx => true
  | .rdSrcData => true
  | .rdDstIdx => true
  | .rdDstData => true
  | .rdCaps => true
  | .rdRsvd slot => reservedSlot slot
  | .wrCtrl _ => true
  | .wrStatus _ => true
  | .wrCfg _ => true
  | .wrBitsIn _ => true
  | .wrBitsOut _ => true
  | .wrBitsLimit _ => true
  | .wrSrcLen _ => true
  | .wrOutLen _ => true
  | .wrSrcIdx _ => true
  | .wrSrcData _ => true
  | .wrDstIdx _ => true
  | .wrDstData _ => true
  | .wrCaps _ => true
  | .wrRsvd slot _ => reservedSlot slot

/-- The write rows, `SEL[12] = 1` (30_encoding.md R59). -/
def Instr.isWrite : Instr → Bool
  | .rdCtrl => false
  | .rdStatus => false
  | .rdCfg => false
  | .rdBitsIn => false
  | .rdBitsOut => false
  | .rdBitsLimit => false
  | .rdSrcLen => false
  | .rdOutLen => false
  | .rdSrcIdx => false
  | .rdSrcData => false
  | .rdDstIdx => false
  | .rdDstData => false
  | .rdCaps => false
  | .rdRsvd _ => false
  | .wrCtrl _ => true
  | .wrStatus _ => true
  | .wrCfg _ => true
  | .wrBitsIn _ => true
  | .wrBitsOut _ => true
  | .wrBitsLimit _ => true
  | .wrSrcLen _ => true
  | .wrOutLen _ => true
  | .wrSrcIdx _ => true
  | .wrSrcData _ => true
  | .wrDstIdx _ => true
  | .wrDstData _ => true
  | .wrCaps _ => true
  | .wrRsvd _ _ => true

end Sys2Proof
end

