-- ==== Sys2Proof/Decode.lean ====
section
/-! DEFINITION. Decoding a bus transaction (30_encoding.md R59, R62, R63), the table of selectors it follows, the
encoder, and the model's own serial form of a transaction in bytes (log entry 8). -/
namespace Sys2Proof

/-! ### The selector -/

/-- `OFFSET >> 3`, the register slot `SEL[11:3]`; offset bits 2:0 are dropped (30_encoding.md R59; 20_memory.md R40). -/
def Transaction.slot (t : Transaction) : BitVec 9 := t.offset.extractLsb' 3 9

/-- `SEL = RW << 12 | OFFSET`, 13 bits (30_encoding.md R59). -/
def Transaction.selector (t : Transaction) : BitVec 13 := BitVec.ofBool t.isWrite ++ t.offset

/-! ### Decoding -/

/-- The read rows of 30_encoding.md R62, by slot; the last row takes every other slot. -/
def decodeRead (slot : BitVec 9) : Instr :=
  match slot.toNat with
  | 0 => .rdCtrl
  | 1 => .rdStatus
  | 2 => .rdCfg
  | 3 => .rdBitsIn
  | 4 => .rdBitsOut
  | 5 => .rdBitsLimit
  | 6 => .rdSrcLen
  | 7 => .rdOutLen
  | 8 => .rdSrcIdx
  | 9 => .rdSrcData
  | 10 => .rdDstIdx
  | 11 => .rdDstData
  | 12 => .rdCaps
  | _ => .rdRsvd slot

/-- The write rows of 30_encoding.md R62, by slot; the last row takes every other slot. -/
def decodeWrite (slot : BitVec 9) (wdata : Word) : Instr :=
  match slot.toNat with
  | 0 => .wrCtrl wdata
  | 1 => .wrStatus wdata
  | 2 => .wrCfg wdata
  | 3 => .wrBitsIn wdata
  | 4 => .wrBitsOut wdata
  | 5 => .wrBitsLimit wdata
  | 6 => .wrSrcLen wdata
  | 7 => .wrOutLen wdata
  | 8 => .wrSrcIdx wdata
  | 9 => .wrSrcData wdata
  | 10 => .wrDstIdx wdata
  | 11 => .wrDstData wdata
  | 12 => .wrCaps wdata
  | _ => .wrRsvd slot wdata

/-- Decode is total on transactions (30_encoding.md R63): "No selector is illegal and none traps." -/
def decode (t : Transaction) : Instr :=
  if t.isWrite then decodeWrite t.slot t.wdata else decodeRead t.slot

/-! ### The opcode table -/

/-- One row of spec/opcode_table.json: a selector matches when `SEL & mask = pattern`. -/
structure OpcodeRow where
  mnemonic : String
  pattern : BitVec 13
  mask : BitVec 13
deriving DecidableEq, Repr

/-- The read rows of spec/opcode_table.json, in its order. -/
def readRows : List OpcodeRow :=
  [
    ⟨"RD_CTRL", 0x0000, 0x1FF8⟩,
    ⟨"RD_STATUS", 0x0008, 0x1FF8⟩,
    ⟨"RD_CFG", 0x0010, 0x1FF8⟩,
    ⟨"RD_BITS_IN", 0x0018, 0x1FF8⟩,
    ⟨"RD_BITS_OUT", 0x0020, 0x1FF8⟩,
    ⟨"RD_BITS_LIMIT", 0x0028, 0x1FF8⟩,
    ⟨"RD_SRC_LEN", 0x0030, 0x1FF8⟩,
    ⟨"RD_OUT_LEN", 0x0038, 0x1FF8⟩,
    ⟨"RD_SRC_IDX", 0x0040, 0x1FF8⟩,
    ⟨"RD_SRC_DATA", 0x0048, 0x1FF8⟩,
    ⟨"RD_DST_IDX", 0x0050, 0x1FF8⟩,
    ⟨"RD_DST_DATA", 0x0058, 0x1FF8⟩,
    ⟨"RD_CAPS", 0x0060, 0x1FF8⟩,
    ⟨"RD_RSVD", 0x0000, 0x1000⟩ ]

/-- The write rows of spec/opcode_table.json, in its order. -/
def writeRows : List OpcodeRow :=
  [
    ⟨"WR_CTRL", 0x1000, 0x1FF8⟩,
    ⟨"WR_STATUS", 0x1008, 0x1FF8⟩,
    ⟨"WR_CFG", 0x1010, 0x1FF8⟩,
    ⟨"WR_BITS_IN", 0x1018, 0x1FF8⟩,
    ⟨"WR_BITS_OUT", 0x1020, 0x1FF8⟩,
    ⟨"WR_BITS_LIMIT", 0x1028, 0x1FF8⟩,
    ⟨"WR_SRC_LEN", 0x1030, 0x1FF8⟩,
    ⟨"WR_OUT_LEN", 0x1038, 0x1FF8⟩,
    ⟨"WR_SRC_IDX", 0x1040, 0x1FF8⟩,
    ⟨"WR_SRC_DATA", 0x1048, 0x1FF8⟩,
    ⟨"WR_DST_IDX", 0x1050, 0x1FF8⟩,
    ⟨"WR_DST_DATA", 0x1058, 0x1FF8⟩,
    ⟨"WR_CAPS", 0x1060, 0x1FF8⟩,
    ⟨"WR_RSVD", 0x1000, 0x1000⟩ ]

/-- spec/opcode_table.json, in its order. -/
def opcodeTable : List OpcodeRow := readRows ++ writeRows

def OpcodeRow.matches (sel : BitVec 13) (r : OpcodeRow) : Bool := sel &&& r.mask == r.pattern

/-- "rows are tried top to bottom and the last row of each direction matches every slot not matched above"
(30_encoding.md R62). -/
def tableMnemonic (sel : BitVec 13) : Option String :=
  (opcodeTable.find? (OpcodeRow.matches sel)).map OpcodeRow.mnemonic

/-- An instruction's mnemonic, as spec/opcode_table.json spells it. -/
def Instr.mnemonic : Instr → String
  | .rdCtrl => "RD_CTRL"
  | .rdStatus => "RD_STATUS"
  | .rdCfg => "RD_CFG"
  | .rdBitsIn => "RD_BITS_IN"
  | .rdBitsOut => "RD_BITS_OUT"
  | .rdBitsLimit => "RD_BITS_LIMIT"
  | .rdSrcLen => "RD_SRC_LEN"
  | .rdOutLen => "RD_OUT_LEN"
  | .rdSrcIdx => "RD_SRC_IDX"
  | .rdSrcData => "RD_SRC_DATA"
  | .rdDstIdx => "RD_DST_IDX"
  | .rdDstData => "RD_DST_DATA"
  | .rdCaps => "RD_CAPS"
  | .rdRsvd _ => "RD_RSVD"
  | .wrCtrl _ => "WR_CTRL"
  | .wrStatus _ => "WR_STATUS"
  | .wrCfg _ => "WR_CFG"
  | .wrBitsIn _ => "WR_BITS_IN"
  | .wrBitsOut _ => "WR_BITS_OUT"
  | .wrBitsLimit _ => "WR_BITS_LIMIT"
  | .wrSrcLen _ => "WR_SRC_LEN"
  | .wrOutLen _ => "WR_OUT_LEN"
  | .wrSrcIdx _ => "WR_SRC_IDX"
  | .wrSrcData _ => "WR_SRC_DATA"
  | .wrDstIdx _ => "WR_DST_IDX"
  | .wrDstData _ => "WR_DST_DATA"
  | .wrCaps _ => "WR_CAPS"
  | .wrRsvd _ _ => "WR_RSVD"

/-! ### The serial form of a transaction (log entry 8, DESIGN CHOICE)

The block receives a transaction on its bus, not as bytes. The serial form numbers its bits as
spec/opcode_table.json numbers the selector: two bytes hold `SEL` with bit 0 the least significant bit of the first
byte (bits 15:13 are padding and are not looked at), eight bytes hold `WDATA`, least significant first. One format,
one length (30_encoding.md R58, R65). -/

/-- Why bytes are no transaction. -/
inductive DecodeError where
  /-- Fewer than ten bytes are left. -/
  | truncated
deriving DecidableEq, Repr

/-- A word from its eight bytes, the least significant first. -/
def wordOfBytes (b0 b1 b2 b3 b4 b5 b6 b7 : Byte) : Word :=
  b7 ++ b6 ++ b5 ++ b4 ++ b3 ++ b2 ++ b1 ++ b0

/-- The transaction at the head of a byte list, and the bytes after it. -/
def transactionOfBytes : List Byte → Except DecodeError (Transaction × List Byte)
  | lo :: hi :: b0 :: b1 :: b2 :: b3 :: b4 :: b5 :: b6 :: b7 :: rest =>
    .ok ({ isWrite := hi.getLsbD 4
           offset := hi.extractLsb' 0 4 ++ lo
           wdata := wordOfBytes b0 b1 b2 b3 b4 b5 b6 b7 }, rest)
  | _ => .error .truncated

/-- Decoding is total on bytes: an instruction and the bytes after it, or a rejection by name. -/
def decodeBytes (bytes : List Byte) : Except DecodeError (Instr × List Byte) :=
  match transactionOfBytes bytes with
  | .ok (t, rest) => .ok (decode t, rest)
  | .error e => .error e

/-- The ten bytes whose bits, counted as spec/opcode_table.json counts them, are `w` below bit `nbits` and 0 above. -/
def tableBytes (nbits w : Nat) : List Byte :=
  (List.range 10).map fun k => BitVec.ofNat 8 (w % 2 ^ nbits / 2 ^ (8 * k))

/-- What the decoder reads from an instruction whose bits are `w`, numbered as spec/opcode_table.json numbers them. -/
def decodeTableWord (nbits w : Nat) : Option Instr :=
  match decodeBytes (tableBytes nbits w) with
  | .ok (i, _) => some i
  | .error _ => none

/-! ### Encoding -/

/-- The transaction at a slot: a read carries no write data (30_encoding.md R58). -/
def readAt (slot : BitVec 9) : Transaction := { isWrite := false, offset := slot ++ 0#3, wdata := 0 }

/-- The transaction at a slot: a write. -/
def writeAt (slot : BitVec 9) (wdata : Word) : Transaction := { isWrite := true, offset := slot ++ 0#3, wdata }

/-- The transaction that performs an instruction (30_encoding.md R62), with offset bits 2:0 zero. -/
def encode : Instr → Transaction
  | .rdCtrl => readAt 0
  | .rdStatus => readAt 1
  | .rdCfg => readAt 2
  | .rdBitsIn => readAt 3
  | .rdBitsOut => readAt 4
  | .rdBitsLimit => readAt 5
  | .rdSrcLen => readAt 6
  | .rdOutLen => readAt 7
  | .rdSrcIdx => readAt 8
  | .rdSrcData => readAt 9
  | .rdDstIdx => readAt 10
  | .rdDstData => readAt 11
  | .rdCaps => readAt 12
  | .rdRsvd slot => readAt slot
  | .wrCtrl wdata => writeAt 0 wdata
  | .wrStatus wdata => writeAt 1 wdata
  | .wrCfg wdata => writeAt 2 wdata
  | .wrBitsIn wdata => writeAt 3 wdata
  | .wrBitsOut wdata => writeAt 4 wdata
  | .wrBitsLimit wdata => writeAt 5 wdata
  | .wrSrcLen wdata => writeAt 6 wdata
  | .wrOutLen wdata => writeAt 7 wdata
  | .wrSrcIdx wdata => writeAt 8 wdata
  | .wrSrcData wdata => writeAt 9 wdata
  | .wrDstIdx wdata => writeAt 10 wdata
  | .wrDstData wdata => writeAt 11 wdata
  | .wrCaps wdata => writeAt 12 wdata
  | .wrRsvd slot wdata => writeAt slot wdata

/-- The eight bytes of a word, the least significant first. -/
def bytesOfWord (w : Word) : List Byte :=
  [w.extractLsb' 0 8, w.extractLsb' 8 8, w.extractLsb' 16 8, w.extractLsb' 24 8,
   w.extractLsb' 32 8, w.extractLsb' 40 8, w.extractLsb' 48 8, w.extractLsb' 56 8]

/-- The serial form of a transaction, padding bits zero. -/
def bytesOfTransaction (t : Transaction) : List Byte :=
  t.offset.extractLsb' 0 8 :: (0#3 ++ BitVec.ofBool t.isWrite ++ t.offset.extractLsb' 8 4) :: bytesOfWord t.wdata

/-- The serial form of an instruction. -/
def encodeBytes (i : Instr) : List Byte := bytesOfTransaction (encode i)

end Sys2Proof
end

