-- ==== Sys2Proof/Config.lean ====
section
/-! DEFINITION. What one built block fixes: the implementation parameters of 00_scope.md R6 that some rule reads.
`BUS_PROTOCOL` and `HOST_BYTE_ORDER` are read by no rule and have no place here (log entry 16). -/
namespace Sys2Proof

/-- `SRC_DEPTH` and `DST_DEPTH`, OPEN parameters (00_scope.md R6; 92_eei_decisions.md D6). The model takes them as
an argument by carrying them in the state, where `CAPS` shows them (10_state.md R25; log entry 5). -/
structure Config where
  /-- `SRC_DEPTH`: number of entries of the source buffer. -/
  srcDepth : BitVec 32
  /-- `DST_DEPTH`: number of entries of the destination buffer. -/
  dstDepth : BitVec 32
deriving DecidableEq, Repr

/-- The range 00_scope.md R6 gives each depth: `1 <= depth <= 2^32 - 1`. -/
abbrev Config.Legal (c : Config) : Prop := 1 ≤ c.srcDepth.toNat ∧ 1 ≤ c.dstDepth.toNat

/-- DESIGN CHOICE (log entry 5; unsafe): the depths of the block that `State.reset` is, those of the test vectors
(95_test_vectors.md: "Unless a vector says otherwise, `SRC_DEPTH = DST_DEPTH = 16`"). No statement rests on them:
every statement is about every `Config`. -/
def Config.sixteen : Config := { srcDepth := 16, dstDepth := 16 }

end Sys2Proof
end

