-- ==== Sys2Proof/Machine/State.lean ====
section
/-! DEFINITION. The state of the block (10_state.md R13), the reasons the model stops, and reset
(70_reset_and_hazards.md R135, R136). -/
namespace Sys2Proof.Machine

/-- The engine's internal stage (10_state.md R29). -/
inductive Phase where
  | idle
  | validate
  | clear
  | copy
  | complete
deriving DecidableEq, Repr

/-- The named errors of 60_exceptions.md R122. -/
inductive ErrorCode where
  | invalidParameter
  | sourceWidthExceeded
  | destWidthExceeded
  | limitNotAligned
  | shiftAmountToSourceTypeFailed
  | shiftAmountToDestTypeFailed
  | bitValueConversionFailed
  | sourceCapacityExceeded
  | destCapacityExceeded
deriving DecidableEq, Repr

/-- An element buffer (10_state.md R28; 20_memory.md R34): the pairs (index, entry) of the entries written since
reset, indices strictly rising. An index that is not listed is "not written" (10_state.md R32) and holds no value
(log entries 4, 7). -/
abbrev Memory := List (Nat × Word)

/-- Who moves next (00_scope.md R10; log entry 1): the host performs a transaction, the engine takes a step, or the
reset input is asserted (70_reset_and_hazards.md R135; log entry 11). -/
inductive Turn where
  | host (t : Transaction)
  | engine
  | reset
deriving DecidableEq, Repr

/-- The state of one block and of the outside world's turns still to come. -/
structure State where
  /-- `CAPS`: `SRC_DEPTH` and `DST_DEPTH` of this block, constant (10_state.md R25). -/
  config : Config
  /-- `STATUS.BUSY` (10_state.md R17). -/
  busy : Bool
  /-- `STATUS.DONE` (10_state.md R17). -/
  done : Bool
  /-- `STATUS.ECODE` (10_state.md R17). -/
  ecode : BitVec 4
  /-- `CFG.SRC_WC` (10_state.md R18). -/
  srcWc : BitVec 2
  /-- `CFG.DST_WC` (10_state.md R18). -/
  dstWc : BitVec 2
  /-- `BITS_IN` (10_state.md R19). -/
  bitsIn : Word
  /-- `BITS_OUT` (10_state.md R20). -/
  bitsOut : Word
  /-- `BITS_LIMIT` (10_state.md R21). -/
  bitsLimit : Word
  /-- `SRC_LEN` (10_state.md R22). -/
  srcLen : Word
  /-- `OUT_LEN` (10_state.md R23). -/
  outLen : Word
  /-- `SRC_IDX` (10_state.md R24). -/
  srcIdx : Word
  /-- `DST_IDX` (10_state.md R24). -/
  dstIdx : Word
  /-- The source buffer `SRC` with its written marks (10_state.md R28, R32). -/
  src : Memory
  /-- The destination buffer `DST` with its written marks (10_state.md R28, R32). -/
  dst : Memory
  /-- The engine's `phase` (10_state.md R29). -/
  phase : Phase
  /-- The engine's position counter `pos` (10_state.md R30). -/
  pos : Word
  /-- The engine's clear counter `clr` (10_state.md R29). -/
  clr : Word
  /-- The engine's output length `n` (10_state.md R29). -/
  n : Word
  /-- MODEL's own: the `RDATA` the last host read returned (30_encoding.md R58; log entry 3). -/
  rdata : Word
  /-- MODEL's own: the turns still to come, the next one first (20_memory.md R50, R51; log entry 1). -/
  port : List Turn
deriving DecidableEq, Repr

/-- The reasons the model stops with a fault. Each is safe: it proves less, never more. -/
inductive Fault where
  /-- Raised by a COPY step and by `RD_SRC_DATA` that read entry `index` of `SRC`, not written since reset:
  "a model treats it as a fault, not as any particular value" (70_reset_and_hazards.md R136). Safe. -/
  | unwrittenSrc (index : Nat)
  /-- Raised by a COPY step and by `RD_DST_DATA` that read entry `index` of `DST`, not written since reset
  (70_reset_and_hazards.md R136). Safe. -/
  | unwrittenDst (index : Nat)
  /-- Raised by an engine step in a state in which no rule gives the engine one: a CLEAR or COPY step without the
  premises at the head of 42_bit_copy_engine.md (93_implementation_defined.md U6). No run reaches it. Safe. -/
  | engineOutOfRules
deriving DecidableEq, Repr

/-- The reasons the model gives an operation no meaning. -/
inductive Refusal where
  /-- Raised by `exec` for an instruction that has no meaning yet; no arm of it does. Safe. -/
  | notModelled (mnemonic : String)
deriving DecidableEq, Repr

/-- The block right after reset, for given depths (70_reset_and_hazards.md R135, R136): every register 0, the engine
IDLE, no buffer entry written. `pos`, `clr`, `n`, for which the spec states no value, are 0 (DESIGN CHOICE, log
entry 6); so is `rdata` (log entry 3); no turn is waiting (log entry 12). -/
def State.resetOf (config : Config) : State :=
  { config
    busy := false, done := false, ecode := 0
    srcWc := 0, dstWc := 0
    bitsIn := 0, bitsOut := 0, bitsLimit := 0
    srcLen := 0, outLen := 0
    srcIdx := 0, dstIdx := 0
    src := [], dst := []
    phase := .idle, pos := 0, clr := 0, n := 0
    rdata := 0, port := [] }

/-- The machine right after reset, with the depths of log entry 5. -/
def State.reset : State := State.resetOf Config.sixteen

end Sys2Proof.Machine
end

