-- ==== Sys2Proof/Machine/Operands.lean ====
section
/-! DEFINITION. Operand and result assembly: the fields of `WDATA` a write takes (30_encoding.md R60) and the words
that `CFG` and `CAPS` are read as (R61). -/
namespace Sys2Proof.Machine

/-- `WDATA[0]`, the `START` bit of `CTRL` (10_state.md R16). -/
def startBit (wdata : Word) : Bool := wdata.getLsbD 0

/-- `WDATA[1:0]`, the `SRC_WC` field of `CFG` (10_state.md R18). -/
def srcWcField (wdata : Word) : BitVec 2 := wdata.extractLsb' 0 2

/-- `WDATA[9:8]`, the `DST_WC` field of `CFG` (10_state.md R18). -/
def dstWcField (wdata : Word) : BitVec 2 := wdata.extractLsb' 8 2

/-- `width(c) = 8 << c`: 8, 16, 32 or 64 bits (00_scope.md R8; 30_encoding.md R61). -/
def width (code : BitVec 2) : Nat := 8 <<< code.toNat

/-- `CFG` as a word (40_register_access.md R73): `zext_64(CFG.DST_WC << 8 | CFG.SRC_WC)`. -/
def cfgWord (s : State) : Word := s.dstWc.setWidth 64 <<< 8 ||| s.srcWc.setWidth 64

/-- `CAPS` as a word (40_register_access.md R93): `zext_64(DST_DEPTH) << 32 | zext_64(SRC_DEPTH)`. -/
def capsWord (s : State) : Word := s.config.dstDepth.setWidth 64 <<< 32 ||| s.config.srcDepth.setWidth 64

/-- `BITS_LIMIT / BITS_OUT`, unsigned (41_repack_command.md R104, R105). -/
def outputLength (s : State) : Word := s.bitsLimit / s.bitsOut

end Sys2Proof.Machine
end

