-- ==== Sys2Proof/Machine/Flags.lean ====
section
/-! DEFINITION. The flags `STATUS.BUSY`, `STATUS.DONE`, `STATUS.ECODE` (10_state.md R27): how they are read, the
numbers of the error codes, and the three ways they are written. -/
namespace Sys2Proof.Machine

/-- `STATUS` as a word: `zext_64(ECODE[3:0] << 8 | DONE << 1 | BUSY)` (30_encoding.md R61). -/
def statusWord (s : State) : Word :=
  s.ecode.setWidth 64 <<< 8 ||| (BitVec.ofBool s.done).setWidth 64 <<< 1 ||| (BitVec.ofBool s.busy).setWidth 64

/-- The number of an error (60_exceptions.md R122). -/
def ErrorCode.code : ErrorCode → BitVec 4
  | .invalidParameter => 1
  | .sourceWidthExceeded => 2
  | .destWidthExceeded => 3
  | .limitNotAligned => 4
  | .shiftAmountToSourceTypeFailed => 5
  | .shiftAmountToDestTypeFailed => 6
  | .bitValueConversionFailed => 7
  | .sourceCapacityExceeded => 8
  | .destCapacityExceeded => 9

/-- The flags of an accepted `START` (41_repack_command.md R97). -/
def State.flagsStarted (s : State) : State := { s with busy := true, done := false, ecode := 0 }

/-- The flags of a command that has ended: `ecode` is 0 for success (41_repack_command.md R106;
42_bit_copy_engine.md R116). -/
def State.flagsEnded (ecode : BitVec 4) (s : State) : State := { s with busy := false, done := true, ecode }

end Sys2Proof.Machine
end

