-- ==== Sys2Proof/Machine/Ops.lean ====
section
/-! DEFINITION. The shared operations: buffer entries, whose turn it is, a host read's reply and a host write's busy
gate, the start of a command, its end with an error (this block's only exception, 60_exceptions.md R123), its
acknowledgement, and reset. -/
namespace Sys2Proof.Machine

/-- What one step or one operation answers. -/
abbrev Result := Host.Outcome State Fault Refusal

/-! ### Buffer entries -/

/-- `MemRead`: the entry at an index, none if it was not written since reset (00_scope.md R9;
70_reset_and_hazards.md R136). -/
def Memory.read (k : Nat) : Memory → Option Word
  | [] => none
  | (a, w) :: rest => if a = k then some w else Memory.read k rest

/-- `MemWrite`: store a whole entry and mark it written (00_scope.md R9; 20_memory.md R42). -/
def Memory.write (k : Nat) (v : Word) : Memory → Memory
  | [] => [(k, v)]
  | (a, w) :: rest =>
    if k < a then (k, v) :: (a, w) :: rest
    else if k = a then (k, v) :: rest
    else (a, w) :: Memory.write k v rest

/-- Every index listed is above `lo`, and the indices rise strictly. -/
def Memory.risesAbove (lo : Nat) : Memory → Bool
  | [] => true
  | (a, _) :: rest => decide (lo < a) && Memory.risesAbove a rest

/-- The canonical form: indices strictly rising (log entry 7). -/
def Memory.wf : Memory → Bool
  | [] => true
  | (a, _) :: rest => Memory.risesAbove a rest

/-- Every index listed is an entry of a buffer of this depth (20_memory.md R33). -/
def Memory.within (depth : Nat) (m : Memory) : Bool := m.all fun e => decide (e.1 < depth)

/-! ### Whose turn it is -/

/-- The next turn, and the state in which it is taken. Where no turn waits, the engine moves
(41_repack_command.md R108, the engine is scheduled fairly; log entry 2). -/
def State.takeTurn (s : State) : Turn × State :=
  match s.port with
  | [] => (.engine, s)
  | turn :: rest => (turn, { s with port := rest })

/-! ### Host transactions -/

/-- `rdata <- v` (00_scope.md R9), and nothing else. -/
def State.reply (v : Word) (s : State) : State := { s with rdata := v }

/-- A host write: while busy it has no effect on any state (10_state.md R26). -/
def hostWrite (effect : State → State) (s : State) : Result :=
  .next (if s.busy then s else effect s)

/-- The value a data window returns when idle: the entry at the index, 0 at or beyond the depth (20_memory.md R47),
none at an entry not written since reset. -/
def windowValue (depth : BitVec 32) (index : Word) (m : Memory) : Option Word :=
  if index.toNat < depth.toNat then m.read index.toNat else some 0

/-- `SRC_IDX <- (SRC_IDX + 1) mod 2^64` (10_state.md R24). -/
def State.advanceSrc (s : State) : State := { s with srcIdx := s.srcIdx + 1 }

/-- `DST_IDX <- (DST_IDX + 1) mod 2^64` (10_state.md R24). -/
def State.advanceDst (s : State) : State := { s with dstIdx := s.dstIdx + 1 }

/-- Store an entry through the source window; at or beyond the depth nothing is stored (20_memory.md R47). -/
def State.storeSrc (v : Word) (s : State) : State :=
  if s.srcIdx.toNat < s.config.srcDepth.toNat then { s with src := s.src.write s.srcIdx.toNat v } else s

/-! ### The start of a command and its end with an error -/

/-- An accepted `START` (41_repack_command.md R97). It also acknowledges the command before it: there is no other
return from an error (60_exceptions.md R127). -/
def State.acceptStart (s : State) : State := { s.flagsStarted with outLen := 0, phase := .validate }

/-- `raise E()`: end the command with error `E` (41_repack_command.md R106; 60_exceptions.md R126). -/
def State.raiseError (e : ErrorCode) (s : State) : State := { s.flagsEnded e.code with phase := .idle }

/-! ### Reset -/

/-- The reset input (70_reset_and_hazards.md R135 to R137): the block as after reset. `rdata` and `port` are the
outside world's and stay (log entry 11). -/
def State.assertReset (s : State) : State :=
  { State.resetOf s.config with rdata := s.rdata, port := s.port }

end Sys2Proof.Machine
end

