-- ==== Sys2Proof/Machine/RepackCommand.lean ====
section
/-! DEFINITION. The REPACK command: `WR_CTRL` and the engine's VALIDATE step (41_repack_command.md R97 to R106). -/
namespace Sys2Proof.Machine

/-- `WR_CTRL` (R97): only `WDATA[0]` is looked at; a `START` while busy is neither queued nor an error. -/
def execWrCtrl (wdata : Word) (s : State) : Result :=
  hostWrite (fun s => if startBit wdata then s.acceptStart else s) s

/-- The first check of R98 that fails, in the order of R99 to R104; none if all pass. Comparisons are unsigned. -/
def failedCheck (s : State) : Option ErrorCode :=
  if s.bitsIn.toNat < 1 ∨ s.bitsOut.toNat < 1 ∨ s.bitsLimit.toNat < 1 then some .invalidParameter
  else if width s.srcWc < s.bitsIn.toNat then some .sourceWidthExceeded
  else if width s.dstWc < s.bitsOut.toNat then some .destWidthExceeded
  else if s.bitsLimit.toNat % s.bitsOut.toNat ≠ 0 then some .limitNotAligned
  else if s.config.srcDepth.toNat < s.srcLen.toNat then some .sourceCapacityExceeded
  else if s.config.dstDepth.toNat < (outputLength s).toNat then some .destCapacityExceeded
  else none

/-- The VALIDATE step (R98): end with the first failing check's error (R106), or go on to CLEAR (R105). -/
def validateStep (s : State) : Result :=
  match failedCheck s with
  | some e => .next (s.raiseError e)
  | none => .next { s with n := outputLength s, clr := 0, phase := .clear }

end Sys2Proof.Machine
end

