-- ==== Sys2Proof/Machine/BitCopy.lean ====
section
/-! DEFINITION. The bit-position mapper and the bit-copy engine: the CLEAR, COPY and COMPLETE steps
(42_bit_copy_engine.md R109 to R116). -/
namespace Sys2Proof.Machine

/-! ### The bit-position mapper -/

/-- `s = i / bi`: the source element of a position (R110). -/
def srcElement (bi i : Nat) : Nat := i / bi

/-- `rs = bi - (i % bi) - 1`: the right-shift amount from the element's bit 0 (R110). -/
def srcShift (bi i : Nat) : Nat := bi - i % bi - 1

/-- `d = i / bo`: the destination element of a position (R111). -/
def dstElement (bo i : Nat) : Nat := i / bo

/-- `ls = bo - (i % bo) - 1`: the left-shift amount into the destination element (R111). -/
def dstShift (bo i : Nat) : Nat := bo - i % bo - 1

/-- `v`: the source element, 0 at or beyond the source length, where no entry is read (R112); none at an entry not
written since reset (70_reset_and_hazards.md R136). -/
def sourceValue (s : State) (k : Nat) : Option Word :=
  if k < s.srcLen.toNat then s.src.read k else some 0

/-- `b = (v >> rs) & 1` (R113). -/
def extractBit (v : Word) (rs : Nat) : Word := v >>> rs &&& 1

/-! ### The engine's steps after VALIDATE -/

/-- The premises at the head of 42_bit_copy_engine.md: "by the time any rule here runs" the checks of
41_repack_command.md R99 to R104 hold and `n = bl / bo`. A state without them is one in which no rule gives the
engine a CLEAR or COPY step (log entry 9). -/
def engineReady (s : State) : Bool := failedCheck s == none && s.n == outputLength s

/-- The CLEAR step (R109). -/
def clearStep (s : State) : Result :=
  if engineReady s && decide (s.clr.toNat < s.n.toNat) then
    let cleared : State := { s with dst := s.dst.write s.clr.toNat 0, clr := s.clr + 1 }
    .next (if cleared.clr = cleared.n then { cleared with pos := 0, phase := .copy } else cleared)
  else .fault .engineOutOfRules

/-- The entry of `DST` after bit `b` is OR-ed in at `ls` (R114). -/
def accumulate (old b : Word) (ls : Nat) : Word := old ||| b <<< ls

/-- The COPY step (R114), on the position `pos`. -/
def copyStep (s : State) : Result :=
  if engineReady s && decide (s.pos.toNat < s.bitsLimit.toNat) then
    let k := srcElement s.bitsIn.toNat s.pos.toNat
    let rs := srcShift s.bitsIn.toNat s.pos.toNat
    let d := dstElement s.bitsOut.toNat s.pos.toNat
    let ls := dstShift s.bitsOut.toNat s.pos.toNat
    match sourceValue s k, s.dst.read d with
    | none, _ => .fault (.unwrittenSrc k)
    | some _, none => .fault (.unwrittenDst d)
    | some v, some old =>
      let copied : State :=
        { s with dst := s.dst.write d (accumulate old (extractBit v rs) ls), pos := s.pos + 1 }
      .next (if copied.pos = copied.bitsLimit then { copied with phase := .complete } else copied)
  else .fault .engineOutOfRules

/-- The COMPLETE step (R116). -/
def completeStep (s : State) : Result :=
  .next { s.flagsEnded 0 with outLen := s.n, phase := .idle }

/-- One engine step: the rule of its phase. In IDLE a `START` is the only thing that makes the engine work
(60_exceptions.md R134), so its turn passes without effect (log entry 14). -/
def engineStep (s : State) : Result :=
  match s.phase with
  | .idle => .next s
  | .validate => validateStep s
  | .clear => clearStep s
  | .copy => copyStep s
  | .complete => completeStep s

end Sys2Proof.Machine
end

