-- ==== Sys2Proof/Machine/RegisterAccess.lean ====
section
/-! DEFINITION. The register operations of 40_register_access.md other than the windows: control and status,
configuration, capabilities and reserved slots. None of them touches the flags. -/
namespace Sys2Proof.Machine

/-! ### Control and status -/

/-- `RD_CTRL` (R70): `START` is not stored, so 0. -/
def execRdCtrl (s : State) : Result := .next (s.reply 0)

/-- `RD_STATUS` (R71). -/
def execRdStatus (s : State) : Result := .next (s.reply (statusWord s))

/-- `WR_STATUS` (R72): no effect. -/
def execWrStatus (_wdata : Word) (s : State) : Result := .next s

/-! ### Configuration -/

/-- `RD_CFG` (R73). -/
def execRdCfg (s : State) : Result := .next (s.reply (cfgWord s))

/-- `WR_CFG` (R74): the two width codes, every other bit ignored. -/
def execWrCfg (wdata : Word) (s : State) : Result :=
  hostWrite (fun s => { s with srcWc := srcWcField wdata, dstWc := dstWcField wdata }) s

/-- `RD_BITS_IN` (R75). -/
def execRdBitsIn (s : State) : Result := .next (s.reply s.bitsIn)

/-- `WR_BITS_IN` (R76): no check at write time. -/
def execWrBitsIn (wdata : Word) (s : State) : Result := hostWrite (fun s => { s with bitsIn := wdata }) s

/-- `RD_BITS_OUT` (R77). -/
def execRdBitsOut (s : State) : Result := .next (s.reply s.bitsOut)

/-- `WR_BITS_OUT` (R78): no check at write time. -/
def execWrBitsOut (wdata : Word) (s : State) : Result := hostWrite (fun s => { s with bitsOut := wdata }) s

/-- `RD_BITS_LIMIT` (R79). -/
def execRdBitsLimit (s : State) : Result := .next (s.reply s.bitsLimit)

/-- `WR_BITS_LIMIT` (R80): no check at write time. -/
def execWrBitsLimit (wdata : Word) (s : State) : Result := hostWrite (fun s => { s with bitsLimit := wdata }) s

/-- `RD_SRC_LEN` (R81). -/
def execRdSrcLen (s : State) : Result := .next (s.reply s.srcLen)

/-- `WR_SRC_LEN` (R82): no check at write time. -/
def execWrSrcLen (wdata : Word) (s : State) : Result := hostWrite (fun s => { s with srcLen := wdata }) s

/-- `RD_OUT_LEN` (R83). -/
def execRdOutLen (s : State) : Result := .next (s.reply s.outLen)

/-- `WR_OUT_LEN` (R84): no effect. -/
def execWrOutLen (_wdata : Word) (s : State) : Result := .next s

/-! ### Capabilities and reserved slots -/

/-- `RD_CAPS` (R93). -/
def execRdCaps (s : State) : Result := .next (s.reply (capsWord s))

/-- `WR_CAPS` (R94): no effect. -/
def execWrCaps (_wdata : Word) (s : State) : Result := .next s

/-- `RD_RSVD` (R95): 0, no side effect. -/
def execRdRsvd (_slot : BitVec 9) (s : State) : Result := .next (s.reply 0)

/-- `WR_RSVD` (R96): no effect. -/
def execWrRsvd (_slot : BitVec 9) (_wdata : Word) (s : State) : Result := .next s

end Sys2Proof.Machine
end

