-- ==== Sys2Proof/Machine/Windows.lean ====
section
/-! DEFINITION. The source and destination windows of 40_register_access.md (R85 to R92). -/
namespace Sys2Proof.Machine

/-! ### Source window -/

/-- `RD_SRC_IDX` (R85). -/
def execRdSrcIdx (s : State) : Result := .next (s.reply s.srcIdx)

/-- `WR_SRC_IDX` (R86). -/
def execWrSrcIdx (wdata : Word) (s : State) : Result := hostWrite (fun s => { s with srcIdx := wdata }) s

/-- `RD_SRC_DATA` (R87): while busy 0 and no other effect; an unwritten entry faults (70_reset_and_hazards.md R136). -/
def execRdSrcData (s : State) : Result :=
  if s.busy then .next (s.reply 0)
  else match windowValue s.config.srcDepth s.srcIdx s.src with
    | some v => .next (s.advanceSrc.reply v)
    | none => .fault (.unwrittenSrc s.srcIdx.toNat)

/-- `WR_SRC_DATA` (R88): all 64 bits stored, the index advances also where nothing is stored. -/
def execWrSrcData (wdata : Word) (s : State) : Result :=
  hostWrite (fun s => (s.storeSrc wdata).advanceSrc) s

/-! ### Destination window -/

/-- `RD_DST_IDX` (R89). -/
def execRdDstIdx (s : State) : Result := .next (s.reply s.dstIdx)

/-- `WR_DST_IDX` (R90). -/
def execWrDstIdx (wdata : Word) (s : State) : Result := hostWrite (fun s => { s with dstIdx := wdata }) s

/-- `RD_DST_DATA` (R91): while busy 0 and no other effect; an unwritten entry faults (70_reset_and_hazards.md R136). -/
def execRdDstData (s : State) : Result :=
  if s.busy then .next (s.reply 0)
  else match windowValue s.config.dstDepth s.dstIdx s.dst with
    | some v => .next (s.advanceDst.reply v)
    | none => .fault (.unwrittenDst s.dstIdx.toNat)

/-- `WR_DST_DATA` (R92): no effect; the host cannot write `DST` and `DST_IDX` does not advance. -/
def execWrDstData (_wdata : Word) (s : State) : Result := .next s

end Sys2Proof.Machine
end

