-- ==== Sys2Proof/Machine/Dispatch.lean ====
section
/-! DEFINITION. One arm per operation of spec/opcode_table.json. -/
namespace Sys2Proof.Machine

/-- What a host transaction does, once decoded (40_register_access.md R69). -/
def exec (i : Instr) (s : State) : Host.Outcome State Fault Refusal :=
  match i with
  | .rdCtrl => Sys2Proof.Machine.execRdCtrl s
  | .rdStatus => Sys2Proof.Machine.execRdStatus s
  | .rdCfg => Sys2Proof.Machine.execRdCfg s
  | .rdBitsIn => Sys2Proof.Machine.execRdBitsIn s
  | .rdBitsOut => Sys2Proof.Machine.execRdBitsOut s
  | .rdBitsLimit => Sys2Proof.Machine.execRdBitsLimit s
  | .rdSrcLen => Sys2Proof.Machine.execRdSrcLen s
  | .rdOutLen => Sys2Proof.Machine.execRdOutLen s
  | .rdSrcIdx => Sys2Proof.Machine.execRdSrcIdx s
  | .rdSrcData => Sys2Proof.Machine.execRdSrcData s
  | .rdDstIdx => Sys2Proof.Machine.execRdDstIdx s
  | .rdDstData => Sys2Proof.Machine.execRdDstData s
  | .rdCaps => Sys2Proof.Machine.execRdCaps s
  | .rdRsvd slot => Sys2Proof.Machine.execRdRsvd slot s
  | .wrCtrl wdata => Sys2Proof.Machine.execWrCtrl wdata s
  | .wrStatus wdata => Sys2Proof.Machine.execWrStatus wdata s
  | .wrCfg wdata => Sys2Proof.Machine.execWrCfg wdata s
  | .wrBitsIn wdata => Sys2Proof.Machine.execWrBitsIn wdata s
  | .wrBitsOut wdata => Sys2Proof.Machine.execWrBitsOut wdata s
  | .wrBitsLimit wdata => Sys2Proof.Machine.execWrBitsLimit wdata s
  | .wrSrcLen wdata => Sys2Proof.Machine.execWrSrcLen wdata s
  | .wrOutLen wdata => Sys2Proof.Machine.execWrOutLen wdata s
  | .wrSrcIdx wdata => Sys2Proof.Machine.execWrSrcIdx wdata s
  | .wrSrcData wdata => Sys2Proof.Machine.execWrSrcData wdata s
  | .wrDstIdx wdata => Sys2Proof.Machine.execWrDstIdx wdata s
  | .wrDstData wdata => Sys2Proof.Machine.execWrDstData wdata s
  | .wrCaps wdata => Sys2Proof.Machine.execWrCaps wdata s
  | .wrRsvd slot wdata => Sys2Proof.Machine.execWrRsvd slot wdata s

end Sys2Proof.Machine
end

