-- ==== Sys2Proof/Machine/Step.lean ====
section
/-! DEFINITION. One step: the turn that comes next is taken, atomically (20_memory.md R42, R51; 40_register_access.md
R69; 70_reset_and_hazards.md R135). -/
namespace Sys2Proof.Machine

/-- One step of the host, of the engine or of the reset input (00_scope.md R10). -/
def step (s : State) : Host.Outcome State Fault Refusal :=
  match s.takeTurn with
  | (.host t, s') => exec (decode t) s'
  | (.engine, s') => engineStep s'
  | (.reset, s') => .next s'.assertReset

/-- `s` with the transaction whose bits are `w`, numbered as spec/opcode_table.json numbers them, as the host's next
turn (log entries 8, 12). -/
def State.withFetchWord (s : State) (nbits w : Nat) : State :=
  match transactionOfBytes (tableBytes nbits w) with
  | .ok (t, _) => { s with port := .host t :: s.port }
  | .error _ => s

end Sys2Proof.Machine
end

