-- ==== Sys2Proof/Machine/Script.lean ====
section
/-! DEFINITION. The assembler notation of host programs (30_encoding.md R67, R68): script lines, the transactions they
stand for, pseudo-instructions and their expansions, and the run of a host program, whose `POLL` reads `STATUS` until it
finds `BUSY = 0`. -/
namespace Sys2Proof.Machine

/-- The registers of 10_state.md R15. -/
inductive RegName where
  | ctrl | status | cfg | bitsIn | bitsOut | bitsLimit | srcLen | outLen
  | srcIdx | srcData | dstIdx | dstData | caps
deriving DecidableEq, Repr

/-- The register's byte offset (10_state.md R15). -/
def RegName.offset : RegName → BitVec 12
  | .ctrl => 0x000
  | .status => 0x008
  | .cfg => 0x010
  | .bitsIn => 0x018
  | .bitsOut => 0x020
  | .bitsLimit => 0x028
  | .srcLen => 0x030
  | .outLen => 0x038
  | .srcIdx => 0x040
  | .srcData => 0x048
  | .dstIdx => 0x050
  | .dstData => 0x058
  | .caps => 0x060

/-- `<reg>`: "a register name … or `@0x<offset>` for a raw offset" (30_encoding.md R67). -/
inductive RegRef where
  | named (r : RegName)
  | raw (offset : BitVec 12)
deriving DecidableEq, Repr

def RegRef.offset : RegRef → BitVec 12
  | .named r => r.offset
  | .raw o => o

/-- One line of a host script: `WR <reg>, <value>` or `RD <reg>` (30_encoding.md R67). -/
inductive Line where
  | wr (reg : RegRef) (value : Word)
  | rd (reg : RegRef)
deriving DecidableEq, Repr

/-- The transaction a line performs: `SEL = 0x1000 | offset`, `WDATA = value`, or `SEL = offset` (30_encoding.md R67). -/
def Line.transaction : Line → Transaction
  | .wr reg value => { isWrite := true, offset := reg.offset, wdata := value }
  | .rd reg => { isWrite := false, offset := reg.offset, wdata := 0 }

/-- One item of a host program: a line, or the loop that `POLL` expands to (30_encoding.md R68). -/
inductive ScriptItem where
  | line (l : Line)
  | poll
deriving DecidableEq, Repr

/-- The pseudo-instructions of 30_encoding.md R68. -/
inductive Pseudo where
  | start
  | poll
  | run
  | config (wc1 wc2 bi bo bl len : Word)
  | loadSrc (k : Word) (values : List Word)
  | readDst (k : Word) (count : Nat)
deriving DecidableEq, Repr

/-- `WR <reg>, <value>` of a named register. -/
def wrItem (r : RegName) (value : Word) : ScriptItem := .line (.wr (.named r) value)

/-- `RD <reg>` of a named register. -/
def rdItem (r : RegName) : ScriptItem := .line (.rd (.named r))

/-- The items a pseudo-instruction expands to, in order (30_encoding.md R68). -/
def Pseudo.expand : Pseudo → List ScriptItem
  | .start => [wrItem .ctrl 1]
  | .poll => [.poll]
  | .run => [wrItem .ctrl 1, .poll]
  | .config wc1 wc2 bi bo bl len =>
    [wrItem .cfg (wc2 <<< 8 ||| wc1), wrItem .bitsIn bi, wrItem .bitsOut bo, wrItem .bitsLimit bl, wrItem .srcLen len]
  | .loadSrc k values => wrItem .srcIdx k :: values.map (wrItem .srcData)
  | .readDst k count => wrItem .dstIdx k :: List.replicate count (rdItem .dstData)

/-! ### The run of a host program -/

/-- The line whose transaction an item performs next; `POLL` performs `RD STATUS`. -/
def ScriptItem.nextLine : ScriptItem → Line
  | .line l => l
  | .poll => .rd (.named .status)

/-- A host in the middle of its program. -/
structure HostRun where
  /-- The items not yet ended, the next one first. -/
  items : List ScriptItem
  /-- The `RDATA` of every read performed, the oldest first. -/
  reads : List Word
  /-- The result of every `RD` line and of every `POLL` that has ended, the oldest first. -/
  results : List Word
  /-- The machine. -/
  state : State
deriving DecidableEq, Repr

/-- A host about to begin a program. -/
def HostRun.begin (items : List ScriptItem) (s : State) : HostRun := { items, reads := [], results := [], state := s }

/-- What the host does once the transaction of `item` has led to the state `t`, with `rest` the items after it. A `POLL`
whose read has bit 0 (`BUSY`) set is to be performed again; its last read is its result (30_encoding.md R68). -/
def HostRun.performed (item : ScriptItem) (rest : List ScriptItem) (t : State) (r : HostRun) : HostRun :=
  match item with
  | .line (.wr _ _) => { r with items := rest, state := t }
  | .line (.rd _) => { items := rest, reads := r.reads ++ [t.rdata], results := r.results ++ [t.rdata], state := t }
  | .poll =>
    if t.rdata.getLsbD 0 then { r with reads := r.reads ++ [t.rdata], state := t }
    else { items := rest, reads := r.reads ++ [t.rdata], results := r.results ++ [t.rdata], state := t }

/-- Turns taken one after the other, before those that wait in the port. -/
def takeTurns : List Turn → State → Result
  | [], s => .next s
  | turn :: turns, s =>
    match step { s with port := turn :: s.port } with
    | .next t => takeTurns turns t
    | .fault f => .fault f
    | .refused f => .refused f

/-- A host program, one transaction for each entry of the schedule until no item is left. An entry holds the turns that
others take before that transaction: any number of engine steps (20_memory.md R51), another master's transactions
(60_exceptions.md R132), a reset. How often a `POLL` reads follows from what its reads return (log entry 15). -/
def runScript : List (List Turn) → HostRun → Host.Outcome HostRun Fault Refusal
  | [], r => .next r
  | turns :: schedule, r =>
    match r.items with
    | [] => .next r
    | item :: rest =>
      match takeTurns (turns ++ [.host item.nextLine.transaction]) r.state with
      | .next t => runScript schedule (r.performed item rest t)
      | .fault f => .fault f
      | .refused f => .refused f

end Sys2Proof.Machine
end

