-- ==== Sys2Proof/Safety.lean ====
section
/-! DEFINITION. The terms the statements use: engine runs, the logical bit stream and the closed form of a command's
result (42_bit_copy_engine.md R117), when a command may run, and the invariant every step keeps. -/
namespace Sys2Proof.Machine

/-! ### Engine runs -/

/-- `k` engine steps with nothing between them, stopping at the first fault or refusal. -/
def engineRun : Nat → State → Result
  | 0, s => .next s
  | k + 1, s =>
    match engineStep s with
    | .next t => engineRun k t
    | .fault r => .fault r
    | .refused r => .refused r

/-- The engine steps of a command that passes validation: one VALIDATE step, `n` CLEAR steps, `BITS_LIMIT` COPY
steps and one COMPLETE step (41_repack_command.md R108). -/
def commandSteps (s : State) : Nat := 1 + (outputLength s).toNat + s.bitsLimit.toNat + 1

/-! ### The logical bit stream -/

/-- `bit(i)` of 42_bit_copy_engine.md R117: the bit of the logical stream at position `i`, 0 beyond the source. An
entry not written since reset, which no command reads to its end, counts as 0 here. -/
def streamBit (s : State) (i : Nat) : Word :=
  if i / s.bitsIn.toNat < s.srcLen.toNat then
    ((s.src.read (i / s.bitsIn.toNat)).getD 0) >>> (s.bitsIn.toNat - 1 - i % s.bitsIn.toNat) &&& 1
  else 0

/-- The OR of `f 0`, …, `f (m - 1)`. -/
def orBelow (m : Nat) (f : Nat → Word) : Word := (List.range m).foldl (fun acc j => acc ||| f j) 0

/-- The closed form of `DST[k]` (42_bit_copy_engine.md R117):
`OR over j in [0, bo) of ( bit(k*bo + j) << (bo - 1 - j) )`. -/
def closedForm (s : State) (k : Nat) : Word :=
  orBelow s.bitsOut.toNat fun j => streamBit s (k * s.bitsOut.toNat + j) <<< (s.bitsOut.toNat - 1 - j)

/-- What `DST[k]` holds after the positions below `p` have been copied: the closed form of those positions. -/
def copiedBelow (s : State) (p k : Nat) : Word :=
  orBelow s.bitsOut.toNat fun j =>
    if k * s.bitsOut.toNat + j < p then
      streamBit s (k * s.bitsOut.toNat + j) <<< (s.bitsOut.toNat - 1 - j)
    else 0

/-! ### When a command may run -/

/-- Every source entry the command reads is written (70_reset_and_hazards.md R142): the entries below `SRC_LEN` that
hold a position below `BITS_LIMIT`; the others are never read (20_memory.md R45; 42_bit_copy_engine.md R119). -/
def SourceWritten (s : State) : Prop :=
  ∀ k, k < s.srcLen.toNat → k * s.bitsIn.toNat < s.bitsLimit.toNat → (s.src.read k).isSome = true

/-- A command has been accepted, its parameters pass every check, and its source is written. -/
structure CommandReady (s : State) : Prop where
  accepted : s.phase = .validate
  checks_pass : failedCheck s = none
  source_written : SourceWritten s

/-! ### The invariant -/

/-- What holds of every reachable state of every block. -/
structure Inv (s : State) : Prop where
  /-- `1 <= depth` (00_scope.md R6). -/
  config_legal : s.config.Legal
  /-- "`phase = IDLE` exactly when `STATUS.BUSY = 0`" (10_state.md R29). -/
  busy_iff : s.busy = true ↔ s.phase ≠ .idle
  /-- "`BUSY = 1` and `DONE = 1` never hold together" (10_state.md R17). -/
  not_busy_and_done : ¬ (s.busy = true ∧ s.done = true)
  /-- "While a command runs, and after reset, `ECODE = 0`" (60_exceptions.md R122). -/
  ecode_zero_unless_done : s.done = false → s.ecode = 0
  /-- Codes 5, 6, 7 and 10 to 15 are never produced (60_exceptions.md R122; 30_encoding.md R64). -/
  ecode_produced : s.ecode = 0 ∨ s.ecode = 1 ∨ s.ecode = 2 ∨ s.ecode = 3 ∨ s.ecode = 4 ∨ s.ecode = 8 ∨ s.ecode = 9
  /-- `OUT_LEN` is 0 after reset, while busy, and after an error (40_register_access.md R83). -/
  no_output_unless_success : s.done = false ∨ s.ecode ≠ 0 → s.outLen = 0
  /-- An output fits the destination buffer (41_repack_command.md R104). -/
  output_fits : s.outLen.toNat ≤ s.config.dstDepth.toNat
  /-- Every entry of the result has been written (42_bit_copy_engine.md R109; 70_reset_and_hazards.md R136). -/
  output_written : ∀ k, k < s.outLen.toNat → (s.dst.read k).isSome = true
  /-- The buffers are in canonical form and hold only entries that exist (20_memory.md R33). -/
  src_wf : s.src.wf = true
  src_within : s.src.within s.config.srcDepth.toNat = true
  dst_wf : s.dst.wf = true
  dst_within : s.dst.within s.config.dstDepth.toNat = true
  /-- The premises at the head of 42_bit_copy_engine.md. -/
  running_ready : s.phase = .clear ∨ s.phase = .copy ∨ s.phase = .complete → engineReady s = true
  /-- In CLEAR, `clr < n` and the entries below `clr` are 0 (42_bit_copy_engine.md R109). -/
  clear_progress : s.phase = .clear → s.clr.toNat < s.n.toNat ∧ ∀ k, k < s.clr.toNat → s.dst.read k = some 0
  /-- In COPY, `pos < bl` and the output holds the positions below `pos` (10_state.md R30; 42_bit_copy_engine.md R114). -/
  copy_progress : s.phase = .copy →
    s.pos.toNat < s.bitsLimit.toNat ∧ ∀ k, k < s.n.toNat → s.dst.read k = some (copiedBelow s s.pos.toNat k)
  /-- In COMPLETE, the output is the closed form (42_bit_copy_engine.md R117). -/
  complete_progress : s.phase = .complete → ∀ k, k < s.n.toNat → s.dst.read k = some (closedForm s k)

/-! ### Reset -/

/-- Every register and the engine as 70_reset_and_hazards.md R135 lists them, and no buffer entry written (R136). The
rule fixes no value of `pos`, `clr` and `n`. -/
structure AsAfterReset (s : State) : Prop where
  flags : s.busy = false ∧ s.done = false ∧ s.ecode = 0
  cfg : s.srcWc = 0 ∧ s.dstWc = 0
  bits : s.bitsIn = 0 ∧ s.bitsOut = 0 ∧ s.bitsLimit = 0
  lengths : s.srcLen = 0 ∧ s.outLen = 0
  indices : s.srcIdx = 0 ∧ s.dstIdx = 0
  phase_idle : s.phase = .idle
  buffers_unwritten : ∀ k, s.src.read k = none ∧ s.dst.read k = none

/-! ### Runs -/

/-- The states a block can reach: from reset, with any legal depths and any turns of the outside world. -/
inductive Reachable : State → Prop where
  | start (config : Config) (port : List Turn) : config.Legal → Reachable { State.resetOf config with port }
  | step (s t : State) : Reachable s → step s = .next t → Reachable t

end Sys2Proof.Machine
end

