-- ==== Sys2Proof/Certificates/Slice0/Obligations.lean ====
section
/-! DEFINITION. The statements about the block, for the provers. Each docstring names the rule of spec/ it formalises
or the section it is derived from. -/
open Sys2Proof Sys2Proof.Machine

/-! ### Encoding -/

/-- 30_encoding.md R62, R63: every selector's row is the first row of the opcode table that matches it. -/
def Obligations.DecodeFollowsTheOpcodeTable : Prop :=
  ∀ t : Transaction, tableMnemonic t.selector = some (decode t).mnemonic

/-- 20_memory.md R40: offset bits 2:0 are ignored. -/
def Obligations.OffsetLowBitsAreIgnored : Prop :=
  ∀ t : Transaction, decode t = decode { t with offset := t.offset &&& 0xFF8 }

/-- 30_encoding.md R58 to R63: a decoded transaction is a well-formed instruction whose encoding has the same `RW`, the
same slot and, for a write, the same `WDATA`; only the ignored bits are dropped. -/
def Obligations.ReencodingKeepsAllButIgnoredBits : Prop :=
  ∀ t : Transaction,
    (decode t).wellFormed = true ∧ (decode t).isWrite = t.isWrite ∧
    encode (decode t) =
      { isWrite := t.isWrite, offset := t.offset &&& 0xFF8, wdata := if t.isWrite then t.wdata else 0 }

/-- Decode and encode agree on every well-formed instruction and every operand, through the serial form of a
transaction, which is the model's own (log entry 8), with any bytes after it. -/
def Obligations.DecodeOfEncodeIsIdentity : Prop :=
  ∀ (i : Instr) (rest : List Byte), i.wellFormed = true → decodeBytes (encodeBytes i ++ rest) = .ok (i, rest)

/-- Words written out from 30_encoding.md R59, R62, R66: named slots, an offset with low bits set (R40), the first and
the last reserved slot, and the REPACK command (the place of `WDATA` above the selector is log entry 8). -/
def Obligations.SelectorWordsDecode : Prop :=
  decodeTableWord 16 0x0008 = some .rdStatus ∧ decodeTableWord 16 0x0058 = some .rdDstData ∧
  decodeTableWord 16 0x1010 = some (.wrCfg 0) ∧ decodeTableWord 16 0x104C = some (.wrSrcData 0) ∧
  decodeTableWord 16 0x0068 = some (.rdRsvd 13) ∧ decodeTableWord 16 0x1FF8 = some (.wrRsvd 511 0) ∧
  decodeTableWord 80 0x11000 = some (.wrCtrl 1)

/-- 30_encoding.md R67: the line `WR <reg>, <value>` has `SEL = 0x1000 | offset(<reg>)` and `WDATA = <value>`, the line
`RD <reg>` has `SEL = offset(<reg>)`; and the line of a named register performs that register's operation. -/
def Obligations.ScriptLinesPerformTheirRegister : Prop :=
  (∀ (r : RegRef) (v : Word),
    (Line.wr r v).transaction.selector = 0x1000 ||| r.offset.setWidth 13 ∧ (Line.wr r v).transaction.wdata = v ∧
    (Line.rd r).transaction.selector = r.offset.setWidth 13) ∧
  (∀ v : Word,
    decode (Line.wr (.named .ctrl) v).transaction = .wrCtrl v ∧
    decode (Line.wr (.named .cfg) v).transaction = .wrCfg v ∧
    decode (Line.wr (.named .bitsIn) v).transaction = .wrBitsIn v ∧
    decode (Line.wr (.named .bitsOut) v).transaction = .wrBitsOut v ∧
    decode (Line.wr (.named .bitsLimit) v).transaction = .wrBitsLimit v ∧
    decode (Line.wr (.named .srcLen) v).transaction = .wrSrcLen v ∧
    decode (Line.wr (.named .srcIdx) v).transaction = .wrSrcIdx v ∧
    decode (Line.wr (.named .srcData) v).transaction = .wrSrcData v ∧
    decode (Line.wr (.named .dstIdx) v).transaction = .wrDstIdx v) ∧
  decode (Line.rd (.named .status)).transaction = .rdStatus ∧
  decode (Line.rd (.named .outLen)).transaction = .rdOutLen ∧
  decode (Line.rd (.named .caps)).transaction = .rdCaps ∧
  decode (Line.rd (.named .dstData)).transaction = .rdDstData

/-! ### Steps -/

/-- 40_register_access.md R69: a host turn is the decoded transaction's operation and nothing else; only the turn is
used up. The second clause says it of a transaction placed by `withFetchWord` (log entries 1, 8, 12). -/
def Obligations.HostTurnRunsTheDecodedInstruction : Prop :=
  (∀ (s : State) (t : Transaction) (rest : List Turn) (i : Instr),
    s.port = .host t :: rest → decode t = i → step s = exec i { s with port := rest }) ∧
  (∀ (s : State) (nbits w : Nat) (i : Instr),
    decodeTableWord nbits w = some i → step (s.withFetchWord nbits w) = exec i s)

/-- 20_memory.md R51, 60_exceptions.md R134: an engine turn is one engine step, without effect while IDLE; with no turn
waiting the engine moves (log entries 1, 2, 14). -/
def Obligations.EngineTurnIsOneEngineStep : Prop :=
  ∀ s : State,
    (∀ rest, s.port = .engine :: rest → step s = engineStep { s with port := rest }) ∧
    (s.port = [] → step s = engineStep s) ∧
    (s.phase = .idle → engineStep s = .next s)

/-- 70_reset_and_hazards.md R135, R137: asserting reset, at any time, in one step. The depths are not affected; what the
outside world holds (`rdata`, the turns to come) stays (log entry 11). -/
def Obligations.ResetTurnRestoresResetState : Prop :=
  ∀ (s : State) (rest : List Turn), s.port = .reset :: rest →
    ∃ t, step s = .next t ∧ AsAfterReset t ∧ t.config = s.config ∧ t.rdata = s.rdata ∧ t.port = rest

/-- 70_reset_and_hazards.md R135, R136, for every block. -/
def Obligations.ResetStateIsAsAfterReset : Prop :=
  (∀ c : Config, AsAfterReset (State.resetOf c) ∧ (State.resetOf c).config = c ∧ (State.resetOf c).port = []) ∧
  AsAfterReset State.reset

/-! ### Host reads -/

/-- 40_register_access.md R70, R95: 0, busy or not, and nothing else changes. -/
def Obligations.CtrlAndReservedReadZero : Prop :=
  ∀ (s : State) (slot : BitVec 9),
    exec .rdCtrl s = .next { s with rdata := 0 } ∧ exec (.rdRsvd slot) s = .next { s with rdata := 0 }

/-- 40_register_access.md R71, 10_state.md R17: bit 0 is `BUSY`, bit 1 `DONE`, bits 11:8 `ECODE`, every other bit 0; no
side effect, busy or not. -/
def Obligations.StatusReadAssemblesTheFlags : Prop :=
  ∀ s : State, ∃ v : Word, exec .rdStatus s = .next { s with rdata := v } ∧
    v.getLsbD 0 = s.busy ∧ v.getLsbD 1 = s.done ∧ v.extractLsb' 8 4 = s.ecode ∧
    (∀ b, (2 ≤ b ∧ b < 8) ∨ 12 ≤ b → v.getLsbD b = false) ∧
    (s.busy = false → s.done = true → s.ecode = 4 → v = 0x402) ∧
    (AsAfterReset s → v = 0)

/-- 40_register_access.md R73, R74: a write of `CFG` stores `WDATA[1:0]` and `WDATA[9:8]` and is ignored when busy; a
read gives the two codes at their places, reserved bits 0. -/
def Obligations.CfgStoresTheWidthCodesOnly : Prop :=
  ∀ (s : State) (w : Word),
    (s.busy = true → exec (.wrCfg w) s = .next s) ∧
    (s.busy = false → ∃ t, exec (.wrCfg w) s = .next t ∧
      t = { s with srcWc := w.extractLsb' 0 2, dstWc := w.extractLsb' 8 2 } ∧
      exec .rdCfg t = .next { t with rdata := w &&& 0x303 }) ∧
    (∃ v, exec .rdCfg s = .next { s with rdata := v } ∧
      v.extractLsb' 0 2 = s.srcWc ∧ v.extractLsb' 8 2 = s.dstWc ∧ v &&& 0x303 = v)

/-- 40_register_access.md R75, R77, R79, R81, R83, R85, R89: the stored value, busy or not, and no side effect. -/
def Obligations.RegisterReadsReturnTheStoredValue : Prop :=
  ∀ s : State,
    exec .rdBitsIn s = .next { s with rdata := s.bitsIn } ∧
    exec .rdBitsOut s = .next { s with rdata := s.bitsOut } ∧
    exec .rdBitsLimit s = .next { s with rdata := s.bitsLimit } ∧
    exec .rdSrcLen s = .next { s with rdata := s.srcLen } ∧
    exec .rdOutLen s = .next { s with rdata := s.outLen } ∧
    exec .rdSrcIdx s = .next { s with rdata := s.srcIdx } ∧
    exec .rdDstIdx s = .next { s with rdata := s.dstIdx }

/-- 40_register_access.md R93, 10_state.md R25: `SRC_DEPTH` in bits 31:0, `DST_DEPTH` in bits 63:32, busy or not; the
example of R93. -/
def Obligations.CapsReadShowsTheDepths : Prop :=
  ∀ s : State, ∃ v : Word, exec .rdCaps s = .next { s with rdata := v } ∧
    v.extractLsb' 0 32 = s.config.srcDepth ∧ v.extractLsb' 32 32 = s.config.dstDepth ∧
    (s.config = ⟨256, 1024⟩ → v = 0x0000040000000100)

/-- 20_memory.md R43: only the two data windows have side effects on read, and only when idle; every other read has
none and is idempotent. -/
def Obligations.OnlyWindowReadsHaveSideEffects : Prop :=
  ∀ s : State,
    (∀ i : Instr, i.isWrite = false → i ≠ .rdSrcData → i ≠ .rdDstData →
      ∃ v, exec i s = .next { s with rdata := v } ∧
        exec i { s with rdata := v } = .next { s with rdata := v }) ∧
    (∀ t, s.busy = false → exec .rdSrcData s = .next t → t = { s with rdata := t.rdata, srcIdx := s.srcIdx + 1 }) ∧
    (∀ t, s.busy = false → exec .rdDstData s = .next t → t = { s with rdata := t.rdata, dstIdx := s.dstIdx + 1 })

/-! ### Host writes -/

/-- 40_register_access.md R76, R78, R80, R82, R86, R90: when idle all 64 bits are stored, with no check; when busy the
write is ignored; nothing else changes. -/
def Obligations.RegisterWritesStoreTheWord : Prop :=
  ∀ (s : State) (w : Word),
    (s.busy = false →
      exec (.wrBitsIn w) s = .next { s with bitsIn := w } ∧
      exec (.wrBitsOut w) s = .next { s with bitsOut := w } ∧
      exec (.wrBitsLimit w) s = .next { s with bitsLimit := w } ∧
      exec (.wrSrcLen w) s = .next { s with srcLen := w } ∧
      exec (.wrSrcIdx w) s = .next { s with srcIdx := w } ∧
      exec (.wrDstIdx w) s = .next { s with dstIdx := w }) ∧
    (s.busy = true →
      exec (.wrBitsIn w) s = .next s ∧ exec (.wrBitsOut w) s = .next s ∧ exec (.wrBitsLimit w) s = .next s ∧
      exec (.wrSrcLen w) s = .next s ∧ exec (.wrSrcIdx w) s = .next s ∧ exec (.wrDstIdx w) s = .next s)

/-- 40_register_access.md R72, R84, R92, R94, R96: writes of read-only registers and reserved slots have no effect. -/
def Obligations.ReadOnlyWritesHaveNoEffect : Prop :=
  ∀ (s : State) (w : Word) (slot : BitVec 9),
    exec (.wrStatus w) s = .next s ∧ exec (.wrOutLen w) s = .next s ∧ exec (.wrDstData w) s = .next s ∧
    exec (.wrCaps w) s = .next s ∧ exec (.wrRsvd slot w) s = .next s

/-- 10_state.md R26, 70_reset_and_hazards.md R139: while `BUSY = 1` a write to any offset has no effect on any state, a
read of a data window returns 0 and changes nothing, and any other read changes nothing (what it returns is said by the
statements under "Host reads", busy or not). -/
def Obligations.BusyGatesEveryHostTransaction : Prop :=
  ∀ s : State, s.busy = true →
    (∀ i : Instr, i.isWrite = true → exec i s = .next s) ∧
    exec .rdSrcData s = .next { s with rdata := 0 } ∧
    exec .rdDstData s = .next { s with rdata := 0 } ∧
    (∀ i : Instr, i.isWrite = false → ∃ v, exec i s = .next { s with rdata := v })

/-! ### Windows -/

/-- 40_register_access.md R87; that an entry not written since reset is a fault is 70_reset_and_hazards.md R136 and log
entry 4. -/
def Obligations.SourceWindowRead : Prop :=
  ∀ s : State,
    (s.busy = true → exec .rdSrcData s = .next { s with rdata := 0 }) ∧
    (s.busy = false → s.srcIdx.toNat < s.config.srcDepth.toNat →
      (∀ v, s.src.read s.srcIdx.toNat = some v →
        exec .rdSrcData s = .next { s with rdata := v, srcIdx := s.srcIdx + 1 }) ∧
      (s.src.read s.srcIdx.toNat = none → exec .rdSrcData s = .fault (.unwrittenSrc s.srcIdx.toNat))) ∧
    (s.busy = false → s.config.srcDepth.toNat ≤ s.srcIdx.toNat →
      exec .rdSrcData s = .next { s with rdata := 0, srcIdx := s.srcIdx + 1 })

/-- 40_register_access.md R91; that an entry not written since reset is a fault is 70_reset_and_hazards.md R136 and log
entry 4. -/
def Obligations.DestinationWindowRead : Prop :=
  ∀ s : State,
    (s.busy = true → exec .rdDstData s = .next { s with rdata := 0 }) ∧
    (s.busy = false → s.dstIdx.toNat < s.config.dstDepth.toNat →
      (∀ v, s.dst.read s.dstIdx.toNat = some v →
        exec .rdDstData s = .next { s with rdata := v, dstIdx := s.dstIdx + 1 }) ∧
      (s.dst.read s.dstIdx.toNat = none → exec .rdDstData s = .fault (.unwrittenDst s.dstIdx.toNat))) ∧
    (s.busy = false → s.config.dstDepth.toNat ≤ s.dstIdx.toNat →
      exec .rdDstData s = .next { s with rdata := 0, dstIdx := s.dstIdx + 1 })

/-- 40_register_access.md R88: the whole word goes into the entry the index names and into no other, and the index
advances. -/
def Obligations.SourceWindowWrite : Prop :=
  ∀ (s : State) (w : Word),
    (s.busy = true → exec (.wrSrcData w) s = .next s) ∧
    (s.busy = false → s.srcIdx.toNat < s.config.srcDepth.toNat →
      ∃ t, exec (.wrSrcData w) s = .next t ∧ t = { s with src := t.src, srcIdx := s.srcIdx + 1 } ∧
        t.src.read s.srcIdx.toNat = some w ∧
        ∀ k, k ≠ s.srcIdx.toNat → t.src.read k = s.src.read k) ∧
    (s.busy = false → s.config.srcDepth.toNat ≤ s.srcIdx.toNat →
      exec (.wrSrcData w) s = .next { s with srcIdx := s.srcIdx + 1 })

/-- 20_memory.md R47: at or beyond the depth a window access reaches no entry, and the index still advances by 1 modulo
`2^64` when the engine is idle. -/
def Obligations.OutOfRangeWindowAccessReachesNothing : Prop :=
  ∀ (s : State) (w : Word), s.busy = false →
    (s.config.srcDepth.toNat ≤ s.srcIdx.toNat →
      (∃ t, exec .rdSrcData s = .next t ∧ t = { s with rdata := 0, srcIdx := t.srcIdx } ∧
        t.srcIdx.toNat = (s.srcIdx.toNat + 1) % 2 ^ 64) ∧
      (∃ t, exec (.wrSrcData w) s = .next t ∧ t = { s with srcIdx := t.srcIdx } ∧
        t.srcIdx.toNat = (s.srcIdx.toNat + 1) % 2 ^ 64)) ∧
    (s.config.dstDepth.toNat ≤ s.dstIdx.toNat →
      ∃ t, exec .rdDstData s = .next t ∧ t = { s with rdata := 0, dstIdx := t.dstIdx } ∧
        t.dstIdx.toNat = (s.dstIdx.toNat + 1) % 2 ^ 64)

/-! ### Rules over every host transaction -/

/-- 60_exceptions.md R123: no host transaction fails. The one stop is the model's own treatment of an entry not written
since reset (70_reset_and_hazards.md R136): an idle read of a data window at such an entry. -/
def Obligations.HostTransactionsAlwaysComplete : Prop :=
  ∀ (i : Instr) (s : State),
    (∃ t, exec i s = .next t) ∨
    (i = .rdSrcData ∧ s.busy = false ∧ s.srcIdx.toNat < s.config.srcDepth.toNat ∧
      s.src.read s.srcIdx.toNat = none ∧ exec i s = .fault (.unwrittenSrc s.srcIdx.toNat)) ∨
    (i = .rdDstData ∧ s.busy = false ∧ s.dstIdx.toNat < s.config.dstDepth.toNat ∧
      s.dst.read s.dstIdx.toNat = none ∧ exec i s = .fault (.unwrittenDst s.dstIdx.toNat))

/-- 10_state.md R27: the flags are written only by an accepted `START`, by the end of a command and by reset. -/
def Obligations.FlagsChangeOnlyAtStartEndAndReset : Prop :=
  ∀ s t : State, step s = .next t → (t.busy ≠ s.busy ∨ t.done ≠ s.done ∨ t.ecode ≠ s.ecode) →
    (∃ h rest w, s.port = .host h :: rest ∧ decode h = .wrCtrl w ∧ w.getLsbD 0 = true ∧ s.busy = false) ∨
    ((s.port = [] ∨ ∃ rest, s.port = .engine :: rest) ∧
      ((s.phase = .validate ∧ failedCheck s ≠ none) ∨ s.phase = .complete)) ∨
    (∃ rest, s.port = .reset :: rest)

/-- 10_state.md R28, 40_register_access.md R92, 70_reset_and_hazards.md R142: no host transaction writes `DST`, only an
idle `WR_SRC_DATA` writes `SRC`, and the engine never writes `SRC`. -/
def Obligations.BuffersHaveOneWriterEach : Prop :=
  (∀ (i : Instr) (s t : State), exec i s = .next t →
    t.dst = s.dst ∧ (t.src ≠ s.src → (∃ w, i = .wrSrcData w) ∧ s.busy = false)) ∧
  (∀ s t : State, engineStep s = .next t → t.src = s.src)

/-- 40_register_access.md R84: `OUT_LEN` changes only at the start and the end of a command and at reset. -/
def Obligations.OutLenChangesOnlyAtStartEndAndReset : Prop :=
  ∀ s t : State, step s = .next t → t.outLen ≠ s.outLen →
    (∃ h rest w, s.port = .host h :: rest ∧ decode h = .wrCtrl w ∧ w.getLsbD 0 = true ∧ s.busy = false) ∨
    ((s.port = [] ∨ ∃ rest, s.port = .engine :: rest) ∧ s.phase = .complete) ∨
    (∃ rest, s.port = .reset :: rest)

/-- 10_state.md R25: no step changes the depths. -/
def Obligations.DepthsAreConstant : Prop :=
  ∀ s t : State, step s = .next t → t.config = s.config

/-! ### The REPACK command -/

/-- 41_repack_command.md R97: the three cases of a write of `CTRL`. -/
def Obligations.StartIsAcceptedOnlyWhenIdle : Prop :=
  ∀ (s : State) (w : Word),
    (s.busy = true → exec (.wrCtrl w) s = .next s) ∧
    (s.busy = false → w.getLsbD 0 = false → exec (.wrCtrl w) s = .next s) ∧
    (s.busy = false → w.getLsbD 0 = true →
      exec (.wrCtrl w) s =
        .next { s with done := false, ecode := 0, outLen := 0, busy := true, phase := .validate })

/-- 41_repack_command.md R98, R105, R106: the checks in order, first failure wins; an error changes `STATUS` and the
phase only, success sets `n`, `clr` and the phase only. That `pos`, `clr` and `n` keep their values when the command ends
is the model's choice (log entry 6); the spec leaves them open in IDLE (10_state.md R29). -/
def Obligations.ValidationReportsTheFirstFailure : Prop :=
  ∀ s : State, s.phase = .validate →
    let w1 := 8 * 2 ^ s.srcWc.toNat
    let w2 := 8 * 2 ^ s.dstWc.toNat
    let p1 := s.bitsIn ≠ 0 ∧ s.bitsOut ≠ 0 ∧ s.bitsLimit ≠ 0
    let p2 := p1 ∧ s.bitsIn.toNat ≤ w1
    let p3 := p2 ∧ s.bitsOut.toNat ≤ w2
    let p4 := p3 ∧ s.bitsLimit.toNat % s.bitsOut.toNat = 0
    let p5 := p4 ∧ s.srcLen.toNat ≤ s.config.srcDepth.toNat
    let p6 := p5 ∧ s.bitsLimit.toNat / s.bitsOut.toNat ≤ s.config.dstDepth.toNat
    let ends (c : BitVec 4) := engineStep s = .next { s with ecode := c, done := true, busy := false, phase := .idle }
    (¬ p1 → ends 1) ∧ (p1 → ¬ p2 → ends 2) ∧ (p2 → ¬ p3 → ends 3) ∧ (p3 → ¬ p4 → ends 4) ∧
    (p4 → ¬ p5 → ends 8) ∧ (p5 → ¬ p6 → ends 9) ∧
    (p6 → engineStep s = .next { s with n := s.bitsLimit / s.bitsOut, clr := 0, phase := .clear })

/-- 60_exceptions.md R126, 41_repack_command.md R106: after an accepted `START` and the failing VALIDATE step nothing has
changed but `STATUS` and `OUT_LEN`. That `pos`, `clr` and `n`, open in IDLE (10_state.md R29), are among what has not
changed is the model's choice (log entry 6). -/
def Obligations.FailedCommandChangesOnlyStatus : Prop :=
  ∀ (s u : State) (w : Word) (e : ErrorCode), s.phase = .idle → s.busy = false → w.getLsbD 0 = true →
    failedCheck s = some e → exec (.wrCtrl w) s = .next u →
    u.busy = true ∧
    engineStep u = .next { s with ecode := e.code, done := true, outLen := 0 }

/-- 41_repack_command.md R107: a command ends by its failing VALIDATE step, by its COMPLETE step, or by reset. -/
def Obligations.OnlyTheEngineOrResetEndsACommand : Prop :=
  ∀ s t : State, s.busy = true → step s = .next t → t.busy = false →
    ((s.port = [] ∨ ∃ rest, s.port = .engine :: rest) ∧
      ((s.phase = .validate ∧ failedCheck s ≠ none) ∨ s.phase = .complete)) ∨
    (∃ rest, s.port = .reset :: rest)

/-- 20_memory.md R55, 10_state.md R26: while a command runs no step but reset changes its parameters, its source, the
window indices or the depths. -/
def Obligations.ParametersAreFrozenWhileBusy : Prop :=
  ∀ s t : State, s.busy = true → (∀ rest, s.port ≠ .reset :: rest) → step s = .next t →
    t.srcWc = s.srcWc ∧ t.dstWc = s.dstWc ∧ t.bitsIn = s.bitsIn ∧ t.bitsOut = s.bitsOut ∧
    t.bitsLimit = s.bitsLimit ∧ t.srcLen = s.srcLen ∧ t.src = s.src ∧
    t.srcIdx = s.srcIdx ∧ t.dstIdx = s.dstIdx ∧ t.config = s.config

/-! ### The bit-copy engine -/

/-- 42_bit_copy_engine.md R109, one CLEAR step: entry `clr` becomes 0, no other entry changes, `clr` advances, and the
last one starts the COPY phase at position 0. -/
def Obligations.ClearStepZeroesOneEntry : Prop :=
  ∀ s : State, s.phase = .clear → engineReady s = true → s.clr.toNat < s.n.toNat →
    ∃ t, engineStep s = .next t ∧
      t = { s with dst := t.dst, clr := s.clr + 1, pos := t.pos, phase := t.phase } ∧
      t.dst.read s.clr.toNat = some 0 ∧ (∀ k, k ≠ s.clr.toNat → t.dst.read k = s.dst.read k) ∧
      (s.clr.toNat + 1 = s.n.toNat → t.pos = 0 ∧ t.phase = .copy) ∧
      (s.clr.toNat + 1 ≠ s.n.toNat → t.pos = s.pos ∧ t.phase = .clear)

/-- 42_bit_copy_engine.md R110, R111: the two mappings and their bounds, and (R114) that no two positions meet in one
bit of one destination element. -/
def Obligations.PositionsMapInsideTheFields : Prop :=
  (∀ bi i : Nat, 1 ≤ bi → bi ≤ 64 →
    srcElement bi i = i / bi ∧ srcShift bi i = bi - i % bi - 1 ∧ srcShift bi i ≤ bi - 1 ∧ srcShift bi i ≤ 63) ∧
  (∀ bo bl i : Nat, 1 ≤ bo → bo ≤ 64 → bl % bo = 0 → i < bl →
    dstElement bo i = i / bo ∧ dstShift bo i = bo - i % bo - 1 ∧ dstShift bo i ≤ bo - 1 ∧ dstShift bo i ≤ 63 ∧
    dstElement bo i ≤ bl / bo - 1) ∧
  (∀ bo i j : Nat, 1 ≤ bo → dstElement bo i = dstElement bo j → dstShift bo i = dstShift bo j → i = j)

/-- 42_bit_copy_engine.md R112, R113, R114, one COPY step: bit `rs` of the source value, 0 beyond the source, is OR-ed
into bit `ls` of the destination element; nothing else of the buffers changes; `pos` advances by 1. -/
def Obligations.CopyStepOrsOneBit : Prop :=
  ∀ (s : State) (v old : Word), s.phase = .copy → engineReady s = true → s.pos.toNat < s.bitsLimit.toNat →
    (if s.pos.toNat / s.bitsIn.toNat < s.srcLen.toNat
      then s.src.read (s.pos.toNat / s.bitsIn.toNat) = some v else v = 0) →
    s.dst.read (s.pos.toNat / s.bitsOut.toNat) = some old →
    ∃ t new, engineStep s = .next t ∧
      t = { s with dst := t.dst, pos := s.pos + 1, phase := t.phase } ∧
      t.dst.read (s.pos.toNat / s.bitsOut.toNat) = some new ∧
      (∀ b, b < 64 → new.getLsbD b = (old.getLsbD b ||
        (decide (b = s.bitsOut.toNat - 1 - s.pos.toNat % s.bitsOut.toNat) &&
          v.getLsbD (s.bitsIn.toNat - 1 - s.pos.toNat % s.bitsIn.toNat)))) ∧
      (∀ k, k ≠ s.pos.toNat / s.bitsOut.toNat → t.dst.read k = s.dst.read k) ∧
      (s.pos.toNat + 1 = s.bitsLimit.toNat → t.phase = .complete) ∧
      (s.pos.toNat + 1 ≠ s.bitsLimit.toNat → t.phase = .copy)

/-- 70_reset_and_hazards.md R136: a COPY step that reads a source entry not written since reset faults. -/
def Obligations.CopyStepFaultsOnUnwrittenSource : Prop :=
  ∀ s : State, s.phase = .copy → engineReady s = true → s.pos.toNat < s.bitsLimit.toNat →
    s.pos.toNat / s.bitsIn.toNat < s.srcLen.toNat → s.src.read (s.pos.toNat / s.bitsIn.toNat) = none →
    engineStep s = .fault (.unwrittenSrc (s.pos.toNat / s.bitsIn.toNat))

/-- 42_bit_copy_engine.md R116, 20_memory.md R52: one step clears `BUSY`, sets `DONE`, `ECODE` and `OUT_LEN`, and changes
nothing else. That `pos`, `clr` and `n`, open in IDLE (10_state.md R29), keep their values is the model's choice (log
entry 6). -/
def Obligations.CompleteStepPublishesTheResult : Prop :=
  ∀ s : State, s.phase = .complete →
    engineStep s = .next { s with outLen := s.n, ecode := 0, done := true, busy := false, phase := .idle }

/-! ### The invariant -/

/-- 00_scope.md R6, 70_reset_and_hazards.md R135: the invariant holds after reset, for every legal block. -/
def Obligations.ResetMeetsTheInvariant : Prop :=
  ∀ (c : Config) (port : List Turn), c.Legal → Inv { State.resetOf c with port }

/-- 10_state.md R17, R29, R30; 20_memory.md R36; 42_bit_copy_engine.md R109 to R118; 60_exceptions.md R122: every step,
of the host, the engine or reset, keeps the invariant, from every state that meets it. -/
def Obligations.EveryStepKeepsTheInvariant : Prop :=
  ∀ s t : State, Inv s → step s = .next t → Inv t

/-- 42_bit_copy_engine.md R115, 20_memory.md R45, 93_implementation_defined.md U1, U6: a state that meets the invariant
stops only at a read of an entry not written since reset: of `SRC` below its depth, or of `DST` by the host. -/
def Obligations.OnlyUnwrittenReadsStopTheMachine : Prop :=
  ∀ s : State, Inv s →
    (∃ t, step s = .next t) ∨
    (∃ k, step s = .fault (.unwrittenSrc k) ∧ k < s.config.srcDepth.toNat ∧ s.src.read k = none) ∨
    (∃ h rest, s.port = .host h :: rest ∧ decode h = .rdDstData ∧ s.busy = false ∧
      s.dst.read s.dstIdx.toNat = none ∧ step s = .fault (.unwrittenDst s.dstIdx.toNat))

/-- Every state a block reaches from reset, whatever the outside world does, keeps the rules of the invariant. -/
def Obligations.ReachableStatesMeetTheInvariant : Prop :=
  ∀ s : State, Reachable s → Inv s

/-! ### Whole commands -/

/-- 41_repack_command.md R108: a command that passes validation ends after one VALIDATE step, `n` CLEAR steps,
`BITS_LIMIT` COPY steps and one COMPLETE step, and not before. -/
def Obligations.CommandEndsAfterItsSteps : Prop :=
  ∀ s : State, CommandReady s →
    (∃ t, engineRun (1 + s.bitsLimit.toNat / s.bitsOut.toNat + s.bitsLimit.toNat + 1) s = .next t ∧
      t.busy = false ∧ t.done = true ∧ t.ecode = 0 ∧ t.phase = .idle ∧ t.outLen = s.bitsLimit / s.bitsOut) ∧
    (∀ j, j < 1 + s.bitsLimit.toNat / s.bitsOut.toNat + s.bitsLimit.toNat + 1 →
      ∃ u, engineRun j s = .next u ∧ u.busy = s.busy ∧ u.phase ≠ .idle ∧ u.outLen = s.outLen)

/-- 42_bit_copy_engine.md R117, 20_memory.md R36: a successful command leaves the closed form in `DST[0 .. n-1]`, leaves
every other entry as it was, and changes no register but `STATUS` and `OUT_LEN`. -/
def Obligations.CommandLeavesTheClosedForm : Prop :=
  ∀ s t : State, CommandReady s → engineRun (commandSteps s) s = .next t →
    (∀ k, k < s.bitsLimit.toNat / s.bitsOut.toNat → t.dst.read k = some (closedForm s k)) ∧
    (∀ k, s.bitsLimit.toNat / s.bitsOut.toNat ≤ k → t.dst.read k = s.dst.read k) ∧
    t = { s with
      busy := false, done := true, ecode := 0, outLen := s.bitsLimit / s.bitsOut, phase := .idle,
      dst := t.dst, pos := t.pos, clr := t.clr, n := t.n }

/-- 42_bit_copy_engine.md R118, R120; 20_memory.md R37: `OUT_LEN` is `bl / bo` exactly, each output element is below
`2^bo`, and the stream read back MSB-first from the output is the source's stream, truncated or zero-padded to
`BITS_LIMIT` bits. -/
def Obligations.OutputIsTheLogicalBitStream : Prop :=
  ∀ s t : State, CommandReady s → engineRun (commandSteps s) s = .next t →
    t.outLen.toNat = s.bitsLimit.toNat / s.bitsOut.toNat ∧
    (∀ k, k < t.outLen.toNat → ∃ y, t.dst.read k = some y ∧ y.toNat < 2 ^ s.bitsOut.toNat) ∧
    (∀ i, i < s.bitsLimit.toNat → ∃ y, t.dst.read (i / s.bitsOut.toNat) = some y ∧
      (∀ x, i < s.srcLen.toNat * s.bitsIn.toNat → s.src.read (i / s.bitsIn.toNat) = some x →
        y.getLsbD (s.bitsOut.toNat - 1 - i % s.bitsOut.toNat) =
          x.getLsbD (s.bitsIn.toNat - 1 - i % s.bitsIn.toNat)) ∧
      (s.srcLen.toNat * s.bitsIn.toNat ≤ i →
        y.getLsbD (s.bitsOut.toNat - 1 - i % s.bitsOut.toNat) = false))

/-- 10_state.md R31, 20_memory.md R35, 42_bit_copy_engine.md R113, R119: two commands with the same parameters whose
sources agree on the significant bits at positions below `BITS_LIMIT` give the same output; nothing else of the source
matters (bits at or above `BITS_IN`, entries at or beyond `SRC_LEN`, truncated bits). -/
def Obligations.IgnoredSourceBitsCannotMatter : Prop :=
  ∀ s s' t t' : State, CommandReady s → CommandReady s' →
    s'.bitsIn = s.bitsIn → s'.bitsOut = s.bitsOut → s'.bitsLimit = s.bitsLimit → s'.srcLen = s.srcLen →
    (∀ k x x' b, k < s.srcLen.toNat → s.src.read k = some x → s'.src.read k = some x' → b < s.bitsIn.toNat →
      k * s.bitsIn.toNat + (s.bitsIn.toNat - 1 - b) < s.bitsLimit.toNat → x'.getLsbD b = x.getLsbD b) →
    engineRun (commandSteps s) s = .next t → engineRun (commandSteps s') s' = .next t' →
    t'.outLen = t.outLen ∧ ∀ k, k < t.outLen.toNat → t'.dst.read k = t.dst.read k

/-- 42_bit_copy_engine.md R121: repacking a result back, with the widths swapped and the original bit count as the limit,
gives the original significant bits, provided the first command did not truncate. -/
def Obligations.RoundTripRestoresTheSource : Prop :=
  ∀ s t s' t' : State, CommandReady s → engineRun (commandSteps s) s = .next t →
    s.srcLen.toNat * s.bitsIn.toNat ≤ s.bitsLimit.toNat →
    CommandReady s' → engineRun (commandSteps s') s' = .next t' →
    s'.srcLen = t.outLen → (∀ k, k < t.outLen.toNat → s'.src.read k = t.dst.read k) →
    s'.bitsIn = s.bitsOut → s'.bitsOut = s.bitsIn → s'.bitsLimit.toNat = s.srcLen.toNat * s.bitsIn.toNat →
    ∀ k x, k < s.srcLen.toNat → s.src.read k = some x →
      t'.dst.read k = some (x &&& BitVec.ofNat 64 (2 ^ s.bitsIn.toNat - 1))

/-! ### Host and engine together -/

/-- 20_memory.md R51: between the acceptance of `START` and the end of the command no host transaction can tell how far
the engine is: every transaction returns the same before and after any number of its steps. -/
def Obligations.HostCannotObserveARunningCommand : Prop :=
  ∀ (s u : State) (j : Nat) (i : Instr), s.busy = true → engineRun j s = .next u → u.busy = true →
    ∃ v, exec i s = .next { s with rdata := v } ∧ exec i u = .next { u with rdata := v }

/-- 20_memory.md R53, R51; 42_bit_copy_engine.md R117: whatever host transactions fall between the engine's steps while a
command runs, the engine arrives where it arrives alone; the host has changed nothing but the data it last read. -/
def Obligations.HostTurnsDoNotDisturbARunningCommand : Prop :=
  ∀ (s u : State) (turns rest : List Turn), s.busy = true → Turn.reset ∉ turns →
    engineRun (turns.count Turn.engine) s = .next u → u.busy = true →
    ∃ v, Host.Core.run core turns.length { s with port := turns ++ rest } = .next { u with port := rest, rdata := v }

/-! ### Host programs -/

/-- 30_encoding.md R68: the transactions each pseudo-instruction expands to, in order; a line is performed once; `POLL`
performs `RD STATUS` again while the result has bit 0 set, and the first result with bit 0 clear is its own. -/
def Obligations.PseudoInstructionsRunAsWritten : Prop :=
  (∀ (k wc1 wc2 bi bo bl len : Word) (values : List Word) (count : Nat),
    let performs (p : Pseudo) (ts : List Transaction) :=
      ∃ lines : List Line, p.expand = lines.map .line ∧ lines.map Line.transaction = ts
    performs .start [⟨true, 0x000, 1⟩] ∧
    performs (.config wc1 wc2 bi bo bl len)
      [⟨true, 0x010, wc2 <<< 8 ||| wc1⟩, ⟨true, 0x018, bi⟩, ⟨true, 0x020, bo⟩, ⟨true, 0x028, bl⟩, ⟨true, 0x030, len⟩] ∧
    performs (.loadSrc k values) (⟨true, 0x040, k⟩ :: values.map fun v => ⟨true, 0x048, v⟩) ∧
    performs (.readDst k count) (⟨true, 0x050, k⟩ :: List.replicate count ⟨false, 0x058, 0⟩) ∧
    Pseudo.expand .poll = [.poll] ∧ Pseudo.expand .run = Pseudo.expand .start ++ Pseudo.expand .poll) ∧
  (∀ (r : HostRun) (rest : List ScriptItem) (turns : List Turn) (schedule : List (List Turn)) (t : State),
    takeTurns turns r.state = .next t →
    (∀ l u, r.items = .line l :: rest → exec (decode l.transaction) t = .next u →
      runScript (turns :: schedule) r = runScript schedule
        (if l.transaction.isWrite then { r with items := rest, state := u }
        else { items := rest, reads := r.reads ++ [u.rdata], results := r.results ++ [u.rdata], state := u })) ∧
    (r.items = .poll :: rest → ∃ v : Word, exec .rdStatus t = .next { t with rdata := v } ∧ v.getLsbD 0 = t.busy ∧
      (t.busy = true → runScript (turns :: schedule) r =
        runScript schedule { r with reads := r.reads ++ [v], state := { t with rdata := v } }) ∧
      (t.busy = false → runScript (turns :: schedule) r = runScript schedule
        { items := rest, reads := r.reads ++ [v], results := r.results ++ [v], state := { t with rdata := v } })))

/-- 30_encoding.md R68, 20_memory.md R51: whatever turns fall between its reads, of the engine, of another master or of
reset, a `POLL` that has ended has read at least once, every read but the last had `BUSY = 1`, the last had `BUSY = 0`
and is its result; a `POLL` that has not ended has read once for each entry of the schedule, always with `BUSY = 1`. -/
def Obligations.PollEndsAtTheFirstReadOfNotBusy : Prop :=
  ∀ (s : State) (schedule : List (List Turn)) (r : HostRun),
    runScript schedule (.begin (Pseudo.expand .poll) s) = .next r →
    (r.items = [] → ∃ (earlier : List Word) (v : Word),
      r.reads = earlier ++ [v] ∧ r.results = [v] ∧ r.reads.length ≤ schedule.length ∧
      (∀ x ∈ earlier, x.getLsbD 0 = true) ∧ v.getLsbD 0 = false ∧ r.state.rdata = v ∧ r.state.busy = false) ∧
    (r.items ≠ [] → r.items = [.poll] ∧ r.results = [] ∧ r.reads.length = schedule.length ∧
      ∀ x ∈ r.reads, x.getLsbD 0 = true)

/-- 70_reset_and_hazards.md R140, R141; 60_exceptions.md R122; 42_bit_copy_engine.md R117: a `RUN` from idle that has
ended, with any number of engine steps before each of its transactions and no other turn between them, reads 0x001 until
it reads the command's own outcome: the error's code with `OUT_LEN = 0` and `DST` as before, or success with the closed
form in `DST`. -/
def Obligations.RunReportsTheOutcomeOfItsCommand : Prop :=
  ∀ (s : State) (schedule : List (List Turn)) (r : HostRun), s.phase = .idle → s.busy = false →
    (failedCheck s = none → SourceWritten s) → (∀ turns ∈ schedule, ∀ turn ∈ turns, turn = .engine) →
    runScript schedule (.begin (Pseudo.expand .run) s) = .next r → r.items = [] →
    (∃ k, r.reads = List.replicate k 0x001 ++ r.results) ∧
    (∀ e, failedCheck s = some e →
      r.results = [e.code.setWidth 64 <<< 8 ||| 0x002] ∧ r.state.outLen = 0 ∧ r.state.dst = s.dst) ∧
    (failedCheck s = none →
      r.results = [0x002] ∧ r.state.outLen = s.bitsLimit / s.bitsOut ∧
      ∀ k, k < s.bitsLimit.toNat / s.bitsOut.toNat → r.state.dst.read k = some (closedForm s k))

/-- 41_repack_command.md R108, 20_memory.md R52: a `RUN` from idle ends once enough reads have been performed, if the
engine takes at least one step before each transaction. -/
def Obligations.RunEndsUnderAFairSchedule : Prop :=
  ∀ (s : State) (schedule : List (List Turn)), s.phase = .idle → s.busy = false →
    (failedCheck s = none → SourceWritten s) →
    (∀ turns ∈ schedule, turns ≠ [] ∧ ∀ turn ∈ turns, turn = .engine) →
    1 + (if failedCheck s = none then commandSteps s else 1) ≤ schedule.length →
    ∃ r, runScript schedule (.begin (Pseudo.expand .run) s) = .next r ∧ r.items = []
end

