-- ==== Sys2Proof/Laws/Decode.lean ====
section
/-! SUPPORT. Laws of selectors and of the serial form. -/
namespace Sys2Proof

theorem extract_slot (slot : BitVec 9) : (slot ++ 0#3).extractLsb' 3 9 = slot := by
  revert slot; decide

@[simp] theorem slot_readAt (slot : BitVec 9) : (readAt slot).slot = slot := extract_slot slot

@[simp] theorem slot_writeAt (slot : BitVec 9) (w : Word) : (writeAt slot w).slot = slot := extract_slot slot

theorem decode_readAt (slot : BitVec 9) : decode (readAt slot) = decodeRead slot :=
  congrArg decodeRead (slot_readAt slot)

theorem decode_writeAt (slot : BitVec 9) (w : Word) : decode (writeAt slot w) = decodeWrite slot w :=
  congrArg (decodeWrite · w) (slot_writeAt slot w)

theorem reservedSlot_iff (slot : BitVec 9) : reservedSlot slot = true ↔ 13 ≤ slot.toNat :=
  decide_eq_true_iff

/-- A read of a reserved slot takes the last row of its direction. -/
theorem decodeRead_reserved {slot : BitVec 9} (h : reservedSlot slot = true) : decodeRead slot = .rdRsvd slot := by
  rw [reservedSlot_iff] at h
  unfold decodeRead; split <;> first | rfl | (exfalso; omega)

/-- A write of a reserved slot takes the last row of its direction. -/
theorem decodeWrite_reserved {slot : BitVec 9} (w : Word) (h : reservedSlot slot = true) :
    decodeWrite slot w = .wrRsvd slot w := by
  rw [reservedSlot_iff] at h
  unfold decodeWrite; split <;> first | rfl | (exfalso; omega)

end Sys2Proof
end

