-- ==== Sys2Proof/Laws/Memory.lean ====
section
/-! SUPPORT. The laws of buffer entries: a read after a write, and the canonical form that every write keeps. -/
namespace Sys2Proof.Machine

/-- A read after a write gives the value written at its index and what was there at every other. -/
theorem Memory.read_write (k j : Nat) (v : Word) (m : Memory) :
    (m.write k v).read j = if j = k then some v else m.read j := by
  induction m with
  | nil => simp [Memory.write, Memory.read, eq_comm]
  | cons e rest ih =>
    obtain ⟨a, w⟩ := e
    simp only [Memory.write]
    split
    · rcases eq_or_ne j k with rfl | h
      · simp [Memory.read]
      · simp [Memory.read, h, h.symm]
    · split
      · subst_vars
        rcases eq_or_ne j a with rfl | h
        · simp [Memory.read]
        · simp [Memory.read, h, h.symm]
      · simp only [Memory.read, ih]
        by_cases h : a = j
        · subst h; simp; omega
        · simp [h]

@[simp] theorem Memory.read_write_same (k : Nat) (v : Word) (m : Memory) : (m.write k v).read k = some v := by
  simp [Memory.read_write]

theorem Memory.read_write_other {k j : Nat} (h : j ≠ k) (v : Word) (m : Memory) :
    (m.write k v).read j = m.read j := by
  simp [Memory.read_write, h]

@[simp] theorem Memory.read_nil (k : Nat) : Memory.read k [] = none := rfl

theorem Memory.risesAbove_write {lo k : Nat} (v : Word) {m : Memory} (hk : lo < k)
    (h : Memory.risesAbove lo m = true) : Memory.risesAbove lo (m.write k v) = true := by
  induction m generalizing lo with
  | nil => simpa [Memory.write, Memory.risesAbove] using hk
  | cons e rest ih =>
    obtain ⟨a, w⟩ := e
    simp only [Memory.risesAbove, Bool.and_eq_true, decide_eq_true_eq] at h
    simp only [Memory.write]
    split
    · simp [Memory.risesAbove, *]
    · split
      · subst_vars; simp [Memory.risesAbove, *]
      · simp only [Memory.risesAbove, Bool.and_eq_true, decide_eq_true_eq]
        exact ⟨h.1, ih (by omega) h.2⟩

/-- Every write keeps the canonical form. -/
theorem Memory.wf_write (k : Nat) (v : Word) {m : Memory} (h : m.wf = true) : (m.write k v).wf = true := by
  cases m with
  | nil => rfl
  | cons e rest =>
    obtain ⟨a, w⟩ := e
    simp only [Memory.wf] at h
    simp only [Memory.write]
    split
    · simp [Memory.wf, Memory.risesAbove, *]
    · split
      · subst_vars; simpa [Memory.wf] using h
      · simpa [Memory.wf] using Memory.risesAbove_write v (by omega) h

/-- A write inside the buffer keeps every index inside it. -/
theorem Memory.within_write {depth k : Nat} (v : Word) {m : Memory} (hk : k < depth)
    (h : m.within depth = true) : (m.write k v).within depth = true := by
  induction m with
  | nil => simpa [Memory.write, Memory.within] using hk
  | cons e rest ih =>
    obtain ⟨a, w⟩ := e
    simp only [Memory.within, List.all_cons, Bool.and_eq_true, decide_eq_true_eq] at h ih
    simp only [Memory.write]
    split
    · simp [Memory.within, *]
    · split
      · subst_vars; simp [Memory.within, *]
      · simpa [Memory.within, h.1] using ih h.2

end Sys2Proof.Machine
end

