-- ==== Sys2Proof/Laws/State.lean ====
section
/-! SUPPORT. One lemma per field for each named update of the state, and for reset. -/
namespace Sys2Proof.Machine

/-! ### `State.reply` -/

@[simp] theorem reply_config (v : Word) (s : State) : (s.reply v).config = s.config := rfl
@[simp] theorem reply_busy (v : Word) (s : State) : (s.reply v).busy = s.busy := rfl
@[simp] theorem reply_done (v : Word) (s : State) : (s.reply v).done = s.done := rfl
@[simp] theorem reply_ecode (v : Word) (s : State) : (s.reply v).ecode = s.ecode := rfl
@[simp] theorem reply_srcWc (v : Word) (s : State) : (s.reply v).srcWc = s.srcWc := rfl
@[simp] theorem reply_dstWc (v : Word) (s : State) : (s.reply v).dstWc = s.dstWc := rfl
@[simp] theorem reply_bitsIn (v : Word) (s : State) : (s.reply v).bitsIn = s.bitsIn := rfl
@[simp] theorem reply_bitsOut (v : Word) (s : State) : (s.reply v).bitsOut = s.bitsOut := rfl
@[simp] theorem reply_bitsLimit (v : Word) (s : State) : (s.reply v).bitsLimit = s.bitsLimit := rfl
@[simp] theorem reply_srcLen (v : Word) (s : State) : (s.reply v).srcLen = s.srcLen := rfl
@[simp] theorem reply_outLen (v : Word) (s : State) : (s.reply v).outLen = s.outLen := rfl
@[simp] theorem reply_srcIdx (v : Word) (s : State) : (s.reply v).srcIdx = s.srcIdx := rfl
@[simp] theorem reply_dstIdx (v : Word) (s : State) : (s.reply v).dstIdx = s.dstIdx := rfl
@[simp] theorem reply_src (v : Word) (s : State) : (s.reply v).src = s.src := rfl
@[simp] theorem reply_dst (v : Word) (s : State) : (s.reply v).dst = s.dst := rfl
@[simp] theorem reply_phase (v : Word) (s : State) : (s.reply v).phase = s.phase := rfl
@[simp] theorem reply_pos (v : Word) (s : State) : (s.reply v).pos = s.pos := rfl
@[simp] theorem reply_clr (v : Word) (s : State) : (s.reply v).clr = s.clr := rfl
@[simp] theorem reply_n (v : Word) (s : State) : (s.reply v).n = s.n := rfl
@[simp] theorem reply_rdata (v : Word) (s : State) : (s.reply v).rdata = v := rfl
@[simp] theorem reply_port (v : Word) (s : State) : (s.reply v).port = s.port := rfl

/-! ### `State.advanceSrc` -/

@[simp] theorem advanceSrc_config (s : State) : (s.advanceSrc).config = s.config := rfl
@[simp] theorem advanceSrc_busy (s : State) : (s.advanceSrc).busy = s.busy := rfl
@[simp] theorem advanceSrc_done (s : State) : (s.advanceSrc).done = s.done := rfl
@[simp] theorem advanceSrc_ecode (s : State) : (s.advanceSrc).ecode = s.ecode := rfl
@[simp] theorem advanceSrc_srcWc (s : State) : (s.advanceSrc).srcWc = s.srcWc := rfl
@[simp] theorem advanceSrc_dstWc (s : State) : (s.advanceSrc).dstWc = s.dstWc := rfl
@[simp] theorem advanceSrc_bitsIn (s : State) : (s.advanceSrc).bitsIn = s.bitsIn := rfl
@[simp] theorem advanceSrc_bitsOut (s : State) : (s.advanceSrc).bitsOut = s.bitsOut := rfl
@[simp] theorem advanceSrc_bitsLimit (s : State) : (s.advanceSrc).bitsLimit = s.bitsLimit := rfl
@[simp] theorem advanceSrc_srcLen (s : State) : (s.advanceSrc).srcLen = s.srcLen := rfl
@[simp] theorem advanceSrc_outLen (s : State) : (s.advanceSrc).outLen = s.outLen := rfl
@[simp] theorem advanceSrc_srcIdx (s : State) : (s.advanceSrc).srcIdx = s.srcIdx + 1 := rfl
@[simp] theorem advanceSrc_dstIdx (s : State) : (s.advanceSrc).dstIdx = s.dstIdx := rfl
@[simp] theorem advanceSrc_src (s : State) : (s.advanceSrc).src = s.src := rfl
@[simp] theorem advanceSrc_dst (s : State) : (s.advanceSrc).dst = s.dst := rfl
@[simp] theorem advanceSrc_phase (s : State) : (s.advanceSrc).phase = s.phase := rfl
@[simp] theorem advanceSrc_pos (s : State) : (s.advanceSrc).pos = s.pos := rfl
@[simp] theorem advanceSrc_clr (s : State) : (s.advanceSrc).clr = s.clr := rfl
@[simp] theorem advanceSrc_n (s : State) : (s.advanceSrc).n = s.n := rfl
@[simp] theorem advanceSrc_rdata (s : State) : (s.advanceSrc).rdata = s.rdata := rfl
@[simp] theorem advanceSrc_port (s : State) : (s.advanceSrc).port = s.port := rfl

/-! ### `State.advanceDst` -/

@[simp] theorem advanceDst_config (s : State) : (s.advanceDst).config = s.config := rfl
@[simp] theorem advanceDst_busy (s : State) : (s.advanceDst).busy = s.busy := rfl
@[simp] theorem advanceDst_done (s : State) : (s.advanceDst).done = s.done := rfl
@[simp] theorem advanceDst_ecode (s : State) : (s.advanceDst).ecode = s.ecode := rfl
@[simp] theorem advanceDst_srcWc (s : State) : (s.advanceDst).srcWc = s.srcWc := rfl
@[simp] theorem advanceDst_dstWc (s : State) : (s.advanceDst).dstWc = s.dstWc := rfl
@[simp] theorem advanceDst_bitsIn (s : State) : (s.advanceDst).bitsIn = s.bitsIn := rfl
@[simp] theorem advanceDst_bitsOut (s : State) : (s.advanceDst).bitsOut = s.bitsOut := rfl
@[simp] theorem advanceDst_bitsLimit (s : State) : (s.advanceDst).bitsLimit = s.bitsLimit := rfl
@[simp] theorem advanceDst_srcLen (s : State) : (s.advanceDst).srcLen = s.srcLen := rfl
@[simp] theorem advanceDst_outLen (s : State) : (s.advanceDst).outLen = s.outLen := rfl
@[simp] theorem advanceDst_srcIdx (s : State) : (s.advanceDst).srcIdx = s.srcIdx := rfl
@[simp] theorem advanceDst_dstIdx (s : State) : (s.advanceDst).dstIdx = s.dstIdx + 1 := rfl
@[simp] theorem advanceDst_src (s : State) : (s.advanceDst).src = s.src := rfl
@[simp] theorem advanceDst_dst (s : State) : (s.advanceDst).dst = s.dst := rfl
@[simp] theorem advanceDst_phase (s : State) : (s.advanceDst).phase = s.phase := rfl
@[simp] theorem advanceDst_pos (s : State) : (s.advanceDst).pos = s.pos := rfl
@[simp] theorem advanceDst_clr (s : State) : (s.advanceDst).clr = s.clr := rfl
@[simp] theorem advanceDst_n (s : State) : (s.advanceDst).n = s.n := rfl
@[simp] theorem advanceDst_rdata (s : State) : (s.advanceDst).rdata = s.rdata := rfl
@[simp] theorem advanceDst_port (s : State) : (s.advanceDst).port = s.port := rfl

/-! ### `State.flagsStarted` -/

@[simp] theorem flagsStarted_config (s : State) : (s.flagsStarted).config = s.config := rfl
@[simp] theorem flagsStarted_busy (s : State) : (s.flagsStarted).busy = true := rfl
@[simp] theorem flagsStarted_done (s : State) : (s.flagsStarted).done = false := rfl
@[simp] theorem flagsStarted_ecode (s : State) : (s.flagsStarted).ecode = 0 := rfl
@[simp] theorem flagsStarted_srcWc (s : State) : (s.flagsStarted).srcWc = s.srcWc := rfl
@[simp] theorem flagsStarted_dstWc (s : State) : (s.flagsStarted).dstWc = s.dstWc := rfl
@[simp] theorem flagsStarted_bitsIn (s : State) : (s.flagsStarted).bitsIn = s.bitsIn := rfl
@[simp] theorem flagsStarted_bitsOut (s : State) : (s.flagsStarted).bitsOut = s.bitsOut := rfl
@[simp] theorem flagsStarted_bitsLimit (s : State) : (s.flagsStarted).bitsLimit = s.bitsLimit := rfl
@[simp] theorem flagsStarted_srcLen (s : State) : (s.flagsStarted).srcLen = s.srcLen := rfl
@[simp] theorem flagsStarted_outLen (s : State) : (s.flagsStarted).outLen = s.outLen := rfl
@[simp] theorem flagsStarted_srcIdx (s : State) : (s.flagsStarted).srcIdx = s.srcIdx := rfl
@[simp] theorem flagsStarted_dstIdx (s : State) : (s.flagsStarted).dstIdx = s.dstIdx := rfl
@[simp] theorem flagsStarted_src (s : State) : (s.flagsStarted).src = s.src := rfl
@[simp] theorem flagsStarted_dst (s : State) : (s.flagsStarted).dst = s.dst := rfl
@[simp] theorem flagsStarted_phase (s : State) : (s.flagsStarted).phase = s.phase := rfl
@[simp] theorem flagsStarted_pos (s : State) : (s.flagsStarted).pos = s.pos := rfl
@[simp] theorem flagsStarted_clr (s : State) : (s.flagsStarted).clr = s.clr := rfl
@[simp] theorem flagsStarted_n (s : State) : (s.flagsStarted).n = s.n := rfl
@[simp] theorem flagsStarted_rdata (s : State) : (s.flagsStarted).rdata = s.rdata := rfl
@[simp] theorem flagsStarted_port (s : State) : (s.flagsStarted).port = s.port := rfl

/-! ### `State.flagsEnded` -/

@[simp] theorem flagsEnded_config (e : BitVec 4) (s : State) : (s.flagsEnded e).config = s.config := rfl
@[simp] theorem flagsEnded_busy (e : BitVec 4) (s : State) : (s.flagsEnded e).busy = false := rfl
@[simp] theorem flagsEnded_done (e : BitVec 4) (s : State) : (s.flagsEnded e).done = true := rfl
@[simp] theorem flagsEnded_ecode (e : BitVec 4) (s : State) : (s.flagsEnded e).ecode = e := rfl
@[simp] theorem flagsEnded_srcWc (e : BitVec 4) (s : State) : (s.flagsEnded e).srcWc = s.srcWc := rfl
@[simp] theorem flagsEnded_dstWc (e : BitVec 4) (s : State) : (s.flagsEnded e).dstWc = s.dstWc := rfl
@[simp] theorem flagsEnded_bitsIn (e : BitVec 4) (s : State) : (s.flagsEnded e).bitsIn = s.bitsIn := rfl
@[simp] theorem flagsEnded_bitsOut (e : BitVec 4) (s : State) : (s.flagsEnded e).bitsOut = s.bitsOut := rfl
@[simp] theorem flagsEnded_bitsLimit (e : BitVec 4) (s : State) : (s.flagsEnded e).bitsLimit = s.bitsLimit := rfl
@[simp] theorem flagsEnded_srcLen (e : BitVec 4) (s : State) : (s.flagsEnded e).srcLen = s.srcLen := rfl
@[simp] theorem flagsEnded_outLen (e : BitVec 4) (s : State) : (s.flagsEnded e).outLen = s.outLen := rfl
@[simp] theorem flagsEnded_srcIdx (e : BitVec 4) (s : State) : (s.flagsEnded e).srcIdx = s.srcIdx := rfl
@[simp] theorem flagsEnded_dstIdx (e : BitVec 4) (s : State) : (s.flagsEnded e).dstIdx = s.dstIdx := rfl
@[simp] theorem flagsEnded_src (e : BitVec 4) (s : State) : (s.flagsEnded e).src = s.src := rfl
@[simp] theorem flagsEnded_dst (e : BitVec 4) (s : State) : (s.flagsEnded e).dst = s.dst := rfl
@[simp] theorem flagsEnded_phase (e : BitVec 4) (s : State) : (s.flagsEnded e).phase = s.phase := rfl
@[simp] theorem flagsEnded_pos (e : BitVec 4) (s : State) : (s.flagsEnded e).pos = s.pos := rfl
@[simp] theorem flagsEnded_clr (e : BitVec 4) (s : State) : (s.flagsEnded e).clr = s.clr := rfl
@[simp] theorem flagsEnded_n (e : BitVec 4) (s : State) : (s.flagsEnded e).n = s.n := rfl
@[simp] theorem flagsEnded_rdata (e : BitVec 4) (s : State) : (s.flagsEnded e).rdata = s.rdata := rfl
@[simp] theorem flagsEnded_port (e : BitVec 4) (s : State) : (s.flagsEnded e).port = s.port := rfl

/-! ### `State.acceptStart` -/

@[simp] theorem acceptStart_config (s : State) : (s.acceptStart).config = s.config := rfl
@[simp] theorem acceptStart_busy (s : State) : (s.acceptStart).busy = true := rfl
@[simp] theorem acceptStart_done (s : State) : (s.acceptStart).done = false := rfl
@[simp] theorem acceptStart_ecode (s : State) : (s.acceptStart).ecode = 0 := rfl
@[simp] theorem acceptStart_srcWc (s : State) : (s.acceptStart).srcWc = s.srcWc := rfl
@[simp] theorem acceptStart_dstWc (s : State) : (s.acceptStart).dstWc = s.dstWc := rfl
@[simp] theorem acceptStart_bitsIn (s : State) : (s.acceptStart).bitsIn = s.bitsIn := rfl
@[simp] theorem acceptStart_bitsOut (s : State) : (s.acceptStart).bitsOut = s.bitsOut := rfl
@[simp] theorem acceptStart_bitsLimit (s : State) : (s.acceptStart).bitsLimit = s.bitsLimit := rfl
@[simp] theorem acceptStart_srcLen (s : State) : (s.acceptStart).srcLen = s.srcLen := rfl
@[simp] theorem acceptStart_outLen (s : State) : (s.acceptStart).outLen = 0 := rfl
@[simp] theorem acceptStart_srcIdx (s : State) : (s.acceptStart).srcIdx = s.srcIdx := rfl
@[simp] theorem acceptStart_dstIdx (s : State) : (s.acceptStart).dstIdx = s.dstIdx := rfl
@[simp] theorem acceptStart_src (s : State) : (s.acceptStart).src = s.src := rfl
@[simp] theorem acceptStart_dst (s : State) : (s.acceptStart).dst = s.dst := rfl
@[simp] theorem acceptStart_phase (s : State) : (s.acceptStart).phase = .validate := rfl
@[simp] theorem acceptStart_pos (s : State) : (s.acceptStart).pos = s.pos := rfl
@[simp] theorem acceptStart_clr (s : State) : (s.acceptStart).clr = s.clr := rfl
@[simp] theorem acceptStart_n (s : State) : (s.acceptStart).n = s.n := rfl
@[simp] theorem acceptStart_rdata (s : State) : (s.acceptStart).rdata = s.rdata := rfl
@[simp] theorem acceptStart_port (s : State) : (s.acceptStart).port = s.port := rfl

/-! ### `State.raiseError` -/

@[simp] theorem raiseError_config (e : ErrorCode) (s : State) : (s.raiseError e).config = s.config := rfl
@[simp] theorem raiseError_busy (e : ErrorCode) (s : State) : (s.raiseError e).busy = false := rfl
@[simp] theorem raiseError_done (e : ErrorCode) (s : State) : (s.raiseError e).done = true := rfl
@[simp] theorem raiseError_ecode (e : ErrorCode) (s : State) : (s.raiseError e).ecode = e.code := rfl
@[simp] theorem raiseError_srcWc (e : ErrorCode) (s : State) : (s.raiseError e).srcWc = s.srcWc := rfl
@[simp] theorem raiseError_dstWc (e : ErrorCode) (s : State) : (s.raiseError e).dstWc = s.dstWc := rfl
@[simp] theorem raiseError_bitsIn (e : ErrorCode) (s : State) : (s.raiseError e).bitsIn = s.bitsIn := rfl
@[simp] theorem raiseError_bitsOut (e : ErrorCode) (s : State) : (s.raiseError e).bitsOut = s.bitsOut := rfl
@[simp] theorem raiseError_bitsLimit (e : ErrorCode) (s : State) : (s.raiseError e).bitsLimit = s.bitsLimit := rfl
@[simp] theorem raiseError_srcLen (e : ErrorCode) (s : State) : (s.raiseError e).srcLen = s.srcLen := rfl
@[simp] theorem raiseError_outLen (e : ErrorCode) (s : State) : (s.raiseError e).outLen = s.outLen := rfl
@[simp] theorem raiseError_srcIdx (e : ErrorCode) (s : State) : (s.raiseError e).srcIdx = s.srcIdx := rfl
@[simp] theorem raiseError_dstIdx (e : ErrorCode) (s : State) : (s.raiseError e).dstIdx = s.dstIdx := rfl
@[simp] theorem raiseError_src (e : ErrorCode) (s : State) : (s.raiseError e).src = s.src := rfl
@[simp] theorem raiseError_dst (e : ErrorCode) (s : State) : (s.raiseError e).dst = s.dst := rfl
@[simp] theorem raiseError_phase (e : ErrorCode) (s : State) : (s.raiseError e).phase = .idle := rfl
@[simp] theorem raiseError_pos (e : ErrorCode) (s : State) : (s.raiseError e).pos = s.pos := rfl
@[simp] theorem raiseError_clr (e : ErrorCode) (s : State) : (s.raiseError e).clr = s.clr := rfl
@[simp] theorem raiseError_n (e : ErrorCode) (s : State) : (s.raiseError e).n = s.n := rfl
@[simp] theorem raiseError_rdata (e : ErrorCode) (s : State) : (s.raiseError e).rdata = s.rdata := rfl
@[simp] theorem raiseError_port (e : ErrorCode) (s : State) : (s.raiseError e).port = s.port := rfl

/-! ### Reset -/

@[simp] theorem resetOf_config (c : Config) : (State.resetOf c).config = c := rfl
@[simp] theorem resetOf_busy (c : Config) : (State.resetOf c).busy = false := rfl
@[simp] theorem resetOf_done (c : Config) : (State.resetOf c).done = false := rfl
@[simp] theorem resetOf_ecode (c : Config) : (State.resetOf c).ecode = 0 := rfl
@[simp] theorem resetOf_srcWc (c : Config) : (State.resetOf c).srcWc = 0 := rfl
@[simp] theorem resetOf_dstWc (c : Config) : (State.resetOf c).dstWc = 0 := rfl
@[simp] theorem resetOf_bitsIn (c : Config) : (State.resetOf c).bitsIn = 0 := rfl
@[simp] theorem resetOf_bitsOut (c : Config) : (State.resetOf c).bitsOut = 0 := rfl
@[simp] theorem resetOf_bitsLimit (c : Config) : (State.resetOf c).bitsLimit = 0 := rfl
@[simp] theorem resetOf_srcLen (c : Config) : (State.resetOf c).srcLen = 0 := rfl
@[simp] theorem resetOf_outLen (c : Config) : (State.resetOf c).outLen = 0 := rfl
@[simp] theorem resetOf_srcIdx (c : Config) : (State.resetOf c).srcIdx = 0 := rfl
@[simp] theorem resetOf_dstIdx (c : Config) : (State.resetOf c).dstIdx = 0 := rfl
@[simp] theorem resetOf_src (c : Config) : (State.resetOf c).src = [] := rfl
@[simp] theorem resetOf_dst (c : Config) : (State.resetOf c).dst = [] := rfl
@[simp] theorem resetOf_phase (c : Config) : (State.resetOf c).phase = .idle := rfl
@[simp] theorem resetOf_pos (c : Config) : (State.resetOf c).pos = 0 := rfl
@[simp] theorem resetOf_clr (c : Config) : (State.resetOf c).clr = 0 := rfl
@[simp] theorem resetOf_n (c : Config) : (State.resetOf c).n = 0 := rfl
@[simp] theorem resetOf_rdata (c : Config) : (State.resetOf c).rdata = 0 := rfl
@[simp] theorem resetOf_port (c : Config) : (State.resetOf c).port = [] := rfl

theorem assertReset_eq (s : State) :
    s.assertReset = { State.resetOf s.config with rdata := s.rdata, port := s.port } := rfl

/-! ### `State.storeSrc` and `State.takeTurn` -/

/-- The store reaches the entry or nothing; no other field changes. -/
theorem storeSrc_eq (v : Word) (s : State) :
    s.storeSrc v = { s with src :=
      if s.srcIdx.toNat < s.config.srcDepth.toNat then s.src.write s.srcIdx.toNat v else s.src } := by
  unfold State.storeSrc; split <;> rfl

theorem takeTurn_nil {s : State} (h : s.port = []) : s.takeTurn = (.engine, s) := by
  simp [State.takeTurn, h]

theorem takeTurn_cons {s : State} {turn : Turn} {rest : List Turn} (h : s.port = turn :: rest) :
    s.takeTurn = (turn, { s with port := rest }) := by
  simp [State.takeTurn, h]

end Sys2Proof.Machine
end

