-- ==== Sys2Proof/Laws/Engine.lean ====
section
/-! SUPPORT. What the checks guarantee and what each engine step can do: one lemma per step. -/
namespace Sys2Proof.Machine

/-! ### The checks -/

theorem width_le (c : BitVec 2) : width c ≤ 64 := by revert c; decide

/-- What a command's parameters satisfy once every check has passed (the head of 42_bit_copy_engine.md). -/
structure ChecksPass (s : State) : Prop where
  bitsIn_pos : 1 ≤ s.bitsIn.toNat
  bitsOut_pos : 1 ≤ s.bitsOut.toNat
  bitsLimit_pos : 1 ≤ s.bitsLimit.toNat
  bitsIn_le : s.bitsIn.toNat ≤ width s.srcWc
  bitsOut_le : s.bitsOut.toNat ≤ width s.dstWc
  aligned : s.bitsLimit.toNat % s.bitsOut.toNat = 0
  source_fits : s.srcLen.toNat ≤ s.config.srcDepth.toNat
  output_fits : (outputLength s).toNat ≤ s.config.dstDepth.toNat

theorem failedCheck_none_iff (s : State) : failedCheck s = none ↔ ChecksPass s := by
  unfold failedCheck
  constructor
  · intro h
    split at h <;> try cases h
    split at h <;> try cases h
    split at h <;> try cases h
    split at h <;> try cases h
    split at h <;> try cases h
    split at h <;> try cases h
    constructor <;> omega
  · rintro ⟨h1, h2, h3, h4, h5, h6, h7, h8⟩
    rw [if_neg (by omega), if_neg (by omega), if_neg (by omega), if_neg (by omega), if_neg (by omega),
      if_neg (by omega)]

theorem outputLength_toNat (s : State) : (outputLength s).toNat = s.bitsLimit.toNat / s.bitsOut.toNat := by
  simp [outputLength, BitVec.toNat_udiv]

theorem ChecksPass.bitsIn_le_64 {s : State} (h : ChecksPass s) : s.bitsIn.toNat ≤ 64 :=
  h.bitsIn_le.trans (width_le _)

theorem ChecksPass.bitsOut_le_64 {s : State} (h : ChecksPass s) : s.bitsOut.toNat ≤ 64 :=
  h.bitsOut_le.trans (width_le _)

/-- `n * bo = bl`: the output length is exact (41_repack_command.md R102). -/
theorem ChecksPass.length_mul {s : State} (h : ChecksPass s) :
    (outputLength s).toNat * s.bitsOut.toNat = s.bitsLimit.toNat := by
  rw [outputLength_toNat]; exact Nat.div_mul_cancel (Nat.dvd_of_mod_eq_zero h.aligned)

theorem ChecksPass.length_pos {s : State} (h : ChecksPass s) : 1 ≤ (outputLength s).toNat := by
  have := h.length_mul
  have := h.bitsLimit_pos
  by_contra hn
  have : (outputLength s).toNat = 0 := by omega
  simp_all

/-- A position below the limit lies in an output element (42_bit_copy_engine.md R111). -/
theorem ChecksPass.dstElement_lt {s : State} (h : ChecksPass s) {i : Nat} (hi : i < s.bitsLimit.toNat) :
    dstElement s.bitsOut.toNat i < (outputLength s).toNat := by
  rw [dstElement, Nat.div_lt_iff_lt_mul h.bitsOut_pos, h.length_mul]; exact hi

theorem engineReady_iff (s : State) : engineReady s = true ↔ ChecksPass s ∧ s.n = outputLength s := by
  simp [engineReady, failedCheck_none_iff]

/-! ### The source value and the accumulated bit -/

theorem sourceValue_inside {s : State} {k : Nat} (h : k < s.srcLen.toNat) : sourceValue s k = s.src.read k := by
  simp [sourceValue, h]

theorem sourceValue_beyond {s : State} {k : Nat} (h : s.srcLen.toNat ≤ k) : sourceValue s k = some 0 := by
  simp [sourceValue, Nat.not_lt.mpr h]

/-- One bit of the entry after a COPY step: the old bit, or bit `rs` of the source value at bit `ls`. -/
theorem accumulate_getLsbD (old v : Word) (rs ls : Nat) {b : Nat} (hb : b < 64) :
    (accumulate old (extractBit v rs) ls).getLsbD b = (old.getLsbD b || (decide (b = ls) && v.getLsbD rs)) := by
  simp only [accumulate, extractBit, BitVec.getLsbD_or, BitVec.getLsbD_shiftLeft, BitVec.getLsbD_and,
    BitVec.getLsbD_ushiftRight]
  congr 1
  rcases Nat.lt_trichotomy b ls with h | rfl | h
  · simp [h, h.ne]
  · simp [hb]
  · have : b - ls ≠ 0 := by omega
    simp [h.ne', BitVec.getLsbD_one, this]

/-- An increment that stays below a 64-bit bound does not wrap. -/
theorem toNat_succ_of_lt {a b : Word} (h : a.toNat < b.toNat) : (a + 1).toNat = a.toNat + 1 := by
  have := b.isLt
  simp only [BitVec.toNat_add]; simp; omega

theorem succ_eq_iff {a b : Word} (h : a.toNat < b.toNat) : a + 1 = b ↔ a.toNat + 1 = b.toNat := by
  rw [← BitVec.toNat_inj, toNat_succ_of_lt h]

/-! ### The steps -/

theorem validateStep_fails {s : State} {e : ErrorCode} (h : failedCheck s = some e) :
    validateStep s = .next (s.raiseError e) := by simp [validateStep, h]

theorem validateStep_passes {s : State} (h : failedCheck s = none) :
    validateStep s = .next { s with n := outputLength s, clr := 0, phase := .clear } := by simp [validateStep, h]

/-- A CLEAR step with its premises. -/
theorem clearStep_eq {s : State} (hr : engineReady s = true) (hc : s.clr.toNat < s.n.toNat) :
    clearStep s = .next
      (if s.clr + 1 = s.n
        then { s with dst := s.dst.write s.clr.toNat 0, clr := s.clr + 1, pos := 0, phase := .copy }
        else { s with dst := s.dst.write s.clr.toNat 0, clr := s.clr + 1 }) := by
  simp [clearStep, hr, hc]

theorem clearStep_next {s t : State} (h : clearStep s = .next t) :
    engineReady s = true ∧ s.clr.toNat < s.n.toNat ∧
    t = if s.clr + 1 = s.n
      then { s with dst := s.dst.write s.clr.toNat 0, clr := s.clr + 1, pos := 0, phase := .copy }
      else { s with dst := s.dst.write s.clr.toNat 0, clr := s.clr + 1 } := by
  by_cases hp : engineReady s = true ∧ s.clr.toNat < s.n.toNat
  · rw [clearStep_eq hp.1 hp.2] at h
    exact ⟨hp.1, hp.2, by cases h; rfl⟩
  · simp [clearStep, hp] at h

/-- The state a COPY step leaves, given the source value and the destination entry it read. -/
def copied (s : State) (v old : Word) : State :=
  let dst := s.dst.write (dstElement s.bitsOut.toNat s.pos.toNat)
    (accumulate old (extractBit v (srcShift s.bitsIn.toNat s.pos.toNat)) (dstShift s.bitsOut.toNat s.pos.toNat))
  if s.pos + 1 = s.bitsLimit then { s with dst, pos := s.pos + 1, phase := .complete }
  else { s with dst, pos := s.pos + 1 }

/-- A COPY step with its premises. -/
theorem copyStep_eq {s : State} {v old : Word} (hr : engineReady s = true) (hp : s.pos.toNat < s.bitsLimit.toNat)
    (hv : sourceValue s (srcElement s.bitsIn.toNat s.pos.toNat) = some v)
    (ho : s.dst.read (dstElement s.bitsOut.toNat s.pos.toNat) = some old) :
    copyStep s = .next (copied s v old) := by
  simp [copyStep, hr, hp, hv, ho, copied]

/-- A COPY step at a source entry not written since reset. -/
theorem copyStep_unwrittenSrc {s : State} (hr : engineReady s = true) (hp : s.pos.toNat < s.bitsLimit.toNat)
    (hv : sourceValue s (srcElement s.bitsIn.toNat s.pos.toNat) = none) :
    copyStep s = .fault (.unwrittenSrc (srcElement s.bitsIn.toNat s.pos.toNat)) := by
  simp [copyStep, hr, hp, hv]

theorem copyStep_next {s t : State} (h : copyStep s = .next t) :
    engineReady s = true ∧ s.pos.toNat < s.bitsLimit.toNat ∧ ∃ v old,
      sourceValue s (srcElement s.bitsIn.toNat s.pos.toNat) = some v ∧
      s.dst.read (dstElement s.bitsOut.toNat s.pos.toNat) = some old ∧ t = copied s v old := by
  by_cases hp : engineReady s = true ∧ s.pos.toNat < s.bitsLimit.toNat
  · refine ⟨hp.1, hp.2, ?_⟩
    cases hv : sourceValue s (srcElement s.bitsIn.toNat s.pos.toNat) with
    | none => rw [copyStep_unwrittenSrc hp.1 hp.2 hv] at h; cases h
    | some v =>
      cases ho : s.dst.read (dstElement s.bitsOut.toNat s.pos.toNat) with
      | none => simp [copyStep, hp, hv, ho] at h
      | some old =>
        rw [copyStep_eq hp.1 hp.2 hv ho] at h
        exact ⟨v, old, rfl, rfl, by cases h; rfl⟩
  · simp [copyStep, hp] at h

/-- The frame of every engine step: the parameters, the source, the indices, the depths, the data last read and the
turns to come stay as they are (10_state.md R26). -/
structure EngineFrame (s t : State) : Prop where
  config : t.config = s.config
  srcWc : t.srcWc = s.srcWc
  dstWc : t.dstWc = s.dstWc
  bitsIn : t.bitsIn = s.bitsIn
  bitsOut : t.bitsOut = s.bitsOut
  bitsLimit : t.bitsLimit = s.bitsLimit
  srcLen : t.srcLen = s.srcLen
  srcIdx : t.srcIdx = s.srcIdx
  dstIdx : t.dstIdx = s.dstIdx
  src : t.src = s.src
  rdata : t.rdata = s.rdata
  port : t.port = s.port

theorem engineStep_frame {s t : State} (h : engineStep s = .next t) : EngineFrame s t := by
  unfold engineStep at h
  split at h
  · cases h; constructor <;> rfl
  · cases hc : failedCheck s with
    | none => rw [validateStep_passes hc] at h; cases h; constructor <;> rfl
    | some e => rw [validateStep_fails hc] at h; cases h; constructor <;> rfl
  · obtain ⟨-, -, rfl⟩ := clearStep_next h; constructor <;> split <;> rfl
  · obtain ⟨-, -, v, old, -, -, rfl⟩ := copyStep_next h
    constructor <;> simp only [copied] <;> split <;> rfl
  · cases h; constructor <;> rfl

end Sys2Proof.Machine
end

