-- ==== Sys2Proof/Laws/Host.lean ====
section
/-! SUPPORT. What a host transaction can do: one lemma per shared operation and one inversion over all of `exec`. -/
namespace Sys2Proof.Machine

theorem hostWrite_busy {effect : State → State} {s : State} (h : s.busy = true) :
    hostWrite effect s = .next s := by simp [hostWrite, h]

theorem hostWrite_idle {effect : State → State} {s : State} (h : s.busy = false) :
    hostWrite effect s = .next (effect s) := by simp [hostWrite, h]

/-! ### The gated writes, as `hostWrite` -/

theorem exec_wrCfg (w : Word) (s : State) :
    exec (.wrCfg w) s = hostWrite (fun s => { s with srcWc := srcWcField w, dstWc := dstWcField w }) s := rfl

theorem exec_wrBitsIn (w : Word) (s : State) :
    exec (.wrBitsIn w) s = hostWrite (fun s => { s with bitsIn := w }) s := rfl

theorem exec_wrBitsOut (w : Word) (s : State) :
    exec (.wrBitsOut w) s = hostWrite (fun s => { s with bitsOut := w }) s := rfl

theorem exec_wrBitsLimit (w : Word) (s : State) :
    exec (.wrBitsLimit w) s = hostWrite (fun s => { s with bitsLimit := w }) s := rfl

theorem exec_wrSrcLen (w : Word) (s : State) :
    exec (.wrSrcLen w) s = hostWrite (fun s => { s with srcLen := w }) s := rfl

theorem exec_wrSrcIdx (w : Word) (s : State) :
    exec (.wrSrcIdx w) s = hostWrite (fun s => { s with srcIdx := w }) s := rfl

theorem exec_wrDstIdx (w : Word) (s : State) :
    exec (.wrDstIdx w) s = hostWrite (fun s => { s with dstIdx := w }) s := rfl

theorem exec_wrSrcData (w : Word) (s : State) :
    exec (.wrSrcData w) s = hostWrite (fun s => (s.storeSrc w).advanceSrc) s := rfl

theorem exec_wrCtrl (w : Word) (s : State) :
    exec (.wrCtrl w) s = hostWrite (fun s => if startBit w then s.acceptStart else s) s := rfl

theorem windowValue_inside {depth : BitVec 32} {index : Word} {m : Memory} (h : index.toNat < depth.toNat) :
    windowValue depth index m = m.read index.toNat := by simp [windowValue, h]

theorem windowValue_outside {depth : BitVec 32} {index : Word} {m : Memory} (h : depth.toNat ≤ index.toNat) :
    windowValue depth index m = some 0 := by simp [windowValue, Nat.not_lt.mpr h]

/-- A window has no value exactly at an entry that exists and is not written. -/
theorem windowValue_none_iff {depth : BitVec 32} {index : Word} {m : Memory} :
    windowValue depth index m = none ↔ index.toNat < depth.toNat ∧ m.read index.toNat = none := by
  unfold windowValue; split <;> simp_all

/-- `RD_SRC_DATA`: the busy reply, the window's value with the index advanced, or the fault. -/
theorem execRdSrcData_cases (s : State) :
    (s.busy = true ∧ execRdSrcData s = .next (s.reply 0)) ∨
    (s.busy = false ∧ ∃ v, windowValue s.config.srcDepth s.srcIdx s.src = some v ∧
      execRdSrcData s = .next (s.advanceSrc.reply v)) ∨
    (s.busy = false ∧ windowValue s.config.srcDepth s.srcIdx s.src = none ∧
      execRdSrcData s = .fault (.unwrittenSrc s.srcIdx.toNat)) := by
  unfold execRdSrcData
  cases hb : s.busy <;> cases hw : windowValue s.config.srcDepth s.srcIdx s.src <;> simp

/-- `RD_DST_DATA`: the busy reply, the window's value with the index advanced, or the fault. -/
theorem execRdDstData_cases (s : State) :
    (s.busy = true ∧ execRdDstData s = .next (s.reply 0)) ∨
    (s.busy = false ∧ ∃ v, windowValue s.config.dstDepth s.dstIdx s.dst = some v ∧
      execRdDstData s = .next (s.advanceDst.reply v)) ∨
    (s.busy = false ∧ windowValue s.config.dstDepth s.dstIdx s.dst = none ∧
      execRdDstData s = .fault (.unwrittenDst s.dstIdx.toNat)) := by
  unfold execRdDstData
  cases hb : s.busy <;> cases hw : windowValue s.config.dstDepth s.dstIdx s.dst <;> simp

/-- The ways a host transaction leaves the state: a reply only, nothing, and when idle also a change of parameter and
index registers (with or without a reply), a store through the source window, or an accepted `START`. -/
inductive HostEffect (i : Instr) (s : State) : State → Prop where
  | reply (v : Word) : HostEffect i s (s.reply v)
  | nothing : HostEffect i s s
  | registers (srcWc dstWc : BitVec 2) (bitsIn bitsOut bitsLimit srcLen srcIdx dstIdx rdata : Word) :
      s.busy = false →
      HostEffect i s { s with srcWc, dstWc, bitsIn, bitsOut, bitsLimit, srcLen, srcIdx, dstIdx, rdata }
  | store (w : Word) : s.busy = false → i = .wrSrcData w → HostEffect i s (s.storeSrc w).advanceSrc
  | start (w : Word) : s.busy = false → i = .wrCtrl w → startBit w = true → HostEffect i s s.acceptStart

/-- Everything a host transaction that answers a next state can have done. -/
theorem exec_effect {i : Instr} {s t : State} (h : exec i s = .next t) : HostEffect i s t := by
  have gate : ∀ {effect : State → State}, hostWrite effect s = .next t →
      (s.busy = false → t = effect s → HostEffect i s t) → HostEffect i s t := by
    intro effect h' k
    cases hb : s.busy
    · rw [hostWrite_idle hb] at h'; exact k hb (by cases h'; rfl)
    · rw [hostWrite_busy hb] at h'; cases h'; exact .nothing
  cases i with
  | rdSrcData =>
    obtain ⟨-, e⟩ | ⟨hb, v, -, e⟩ | ⟨-, -, e⟩ := execRdSrcData_cases s <;>
      (rw [show exec .rdSrcData s = execRdSrcData s from rfl, e] at h; cases h)
    · exact .reply 0
    · exact .registers _ _ _ _ _ _ _ _ _ hb
  | rdDstData =>
    obtain ⟨-, e⟩ | ⟨hb, v, -, e⟩ | ⟨-, -, e⟩ := execRdDstData_cases s <;>
      (rw [show exec .rdDstData s = execRdDstData s from rfl, e] at h; cases h)
    · exact .reply 0
    · exact .registers _ _ _ _ _ _ _ _ _ hb
  | wrCtrl w =>
    refine gate h fun hb e => ?_
    cases hw : startBit w <;> simp only [hw] at e <;> subst e
    · exact .nothing
    · exact .start w hb rfl hw
  | wrSrcData w =>
    simp only [exec, execWrSrcData] at h
    refine gate h fun hb e => ?_
    subst e
    exact .store w hb rfl
  | wrCfg w =>
    simp only [exec, execWrCfg] at h
    refine gate h fun hb e => ?_
    subst e
    exact .registers _ _ _ _ _ _ _ _ _ hb
  | wrBitsIn w =>
    simp only [exec, execWrBitsIn] at h
    refine gate h fun hb e => ?_
    subst e
    exact .registers _ _ _ _ _ _ _ _ _ hb
  | wrBitsOut w =>
    simp only [exec, execWrBitsOut] at h
    refine gate h fun hb e => ?_
    subst e
    exact .registers _ _ _ _ _ _ _ _ _ hb
  | wrBitsLimit w =>
    simp only [exec, execWrBitsLimit] at h
    refine gate h fun hb e => ?_
    subst e
    exact .registers _ _ _ _ _ _ _ _ _ hb
  | wrSrcLen w =>
    simp only [exec, execWrSrcLen] at h
    refine gate h fun hb e => ?_
    subst e
    exact .registers _ _ _ _ _ _ _ _ _ hb
  | wrSrcIdx w =>
    simp only [exec, execWrSrcIdx] at h
    refine gate h fun hb e => ?_
    subst e
    exact .registers _ _ _ _ _ _ _ _ _ hb
  | wrDstIdx w =>
    simp only [exec, execWrDstIdx] at h
    refine gate h fun hb e => ?_
    subst e
    exact .registers _ _ _ _ _ _ _ _ _ hb
  | wrStatus w => cases h; exact .nothing
  | wrOutLen w => cases h; exact .nothing
  | wrDstData w => cases h; exact .nothing
  | wrCaps w => cases h; exact .nothing
  | wrRsvd slot w => cases h; exact .nothing
  | rdCtrl => cases h; exact .reply _
  | rdStatus => cases h; exact .reply _
  | rdCfg => cases h; exact .reply _
  | rdBitsIn => cases h; exact .reply _
  | rdBitsOut => cases h; exact .reply _
  | rdBitsLimit => cases h; exact .reply _
  | rdSrcLen => cases h; exact .reply _
  | rdOutLen => cases h; exact .reply _
  | rdSrcIdx => cases h; exact .reply _
  | rdDstIdx => cases h; exact .reply _
  | rdCaps => cases h; exact .reply _
  | rdRsvd slot => cases h; exact .reply _

end Sys2Proof.Machine
end

