-- ==== Sys2Proof/Laws/PerInstr.lean ====
section
/-! SUPPORT. Statements made of each instruction as syntax, one lemma per constructor.

`TableRow`: the selector of a well-formed instruction's encoding finds the instruction's own row of
spec/opcode_table.json (30_encoding.md R62). -/
namespace Sys2Proof.Laws.TableRow

def Statement (i : Instr) : Prop := i.wellFormed = true → tableMnemonic (encode i).selector = some i.mnemonic

theorem rdCtrl : Statement .rdCtrl := fun _ => by decide
theorem rdStatus : Statement .rdStatus := fun _ => by decide
theorem rdCfg : Statement .rdCfg := fun _ => by decide
theorem rdBitsIn : Statement .rdBitsIn := fun _ => by decide
theorem rdBitsOut : Statement .rdBitsOut := fun _ => by decide
theorem rdBitsLimit : Statement .rdBitsLimit := fun _ => by decide
theorem rdSrcLen : Statement .rdSrcLen := fun _ => by decide
theorem rdOutLen : Statement .rdOutLen := fun _ => by decide
theorem rdSrcIdx : Statement .rdSrcIdx := fun _ => by decide
theorem rdSrcData : Statement .rdSrcData := fun _ => by decide
theorem rdDstIdx : Statement .rdDstIdx := fun _ => by decide
theorem rdDstData : Statement .rdDstData := fun _ => by decide
theorem rdCaps : Statement .rdCaps := fun _ => by decide
theorem rdRsvd (slot : BitVec 9) : Statement (.rdRsvd slot) := by
  revert slot; unfold Statement; decide
theorem wrCtrl (wdata : Word) : Statement (.wrCtrl wdata) := fun _ =>
  (by decide : tableMnemonic (encode (.wrCtrl 0)).selector = some (Instr.wrCtrl 0).mnemonic)
theorem wrStatus (wdata : Word) : Statement (.wrStatus wdata) := fun _ =>
  (by decide : tableMnemonic (encode (.wrStatus 0)).selector = some (Instr.wrStatus 0).mnemonic)
theorem wrCfg (wdata : Word) : Statement (.wrCfg wdata) := fun _ =>
  (by decide : tableMnemonic (encode (.wrCfg 0)).selector = some (Instr.wrCfg 0).mnemonic)
theorem wrBitsIn (wdata : Word) : Statement (.wrBitsIn wdata) := fun _ =>
  (by decide : tableMnemonic (encode (.wrBitsIn 0)).selector = some (Instr.wrBitsIn 0).mnemonic)
theorem wrBitsOut (wdata : Word) : Statement (.wrBitsOut wdata) := fun _ =>
  (by decide : tableMnemonic (encode (.wrBitsOut 0)).selector = some (Instr.wrBitsOut 0).mnemonic)
theorem wrBitsLimit (wdata : Word) : Statement (.wrBitsLimit wdata) := fun _ =>
  (by decide : tableMnemonic (encode (.wrBitsLimit 0)).selector = some (Instr.wrBitsLimit 0).mnemonic)
theorem wrSrcLen (wdata : Word) : Statement (.wrSrcLen wdata) := fun _ =>
  (by decide : tableMnemonic (encode (.wrSrcLen 0)).selector = some (Instr.wrSrcLen 0).mnemonic)
theorem wrOutLen (wdata : Word) : Statement (.wrOutLen wdata) := fun _ =>
  (by decide : tableMnemonic (encode (.wrOutLen 0)).selector = some (Instr.wrOutLen 0).mnemonic)
theorem wrSrcIdx (wdata : Word) : Statement (.wrSrcIdx wdata) := fun _ =>
  (by decide : tableMnemonic (encode (.wrSrcIdx 0)).selector = some (Instr.wrSrcIdx 0).mnemonic)
theorem wrSrcData (wdata : Word) : Statement (.wrSrcData wdata) := fun _ =>
  (by decide : tableMnemonic (encode (.wrSrcData 0)).selector = some (Instr.wrSrcData 0).mnemonic)
theorem wrDstIdx (wdata : Word) : Statement (.wrDstIdx wdata) := fun _ =>
  (by decide : tableMnemonic (encode (.wrDstIdx 0)).selector = some (Instr.wrDstIdx 0).mnemonic)
theorem wrDstData (wdata : Word) : Statement (.wrDstData wdata) := fun _ =>
  (by decide : tableMnemonic (encode (.wrDstData 0)).selector = some (Instr.wrDstData 0).mnemonic)
theorem wrCaps (wdata : Word) : Statement (.wrCaps wdata) := fun _ =>
  (by decide : tableMnemonic (encode (.wrCaps 0)).selector = some (Instr.wrCaps 0).mnemonic)
theorem wrRsvd (slot : BitVec 9) (wdata : Word) : Statement (.wrRsvd slot wdata) := by
  have h : ∀ slot : BitVec 9, Statement (.wrRsvd slot 0) := by unfold Statement; decide
  exact h slot

end Sys2Proof.Laws.TableRow
end

