-- ==== Sys2Proof/Laws/Script.lean ====
section
/-! SUPPORT. Laws of host programs: what a turn put before the waiting ones does, and the run of a program item by
item. -/
namespace Sys2Proof.Machine

theorem step_host_turn (t : Transaction) (s : State) :
    step { s with port := .host t :: s.port } = exec (decode t) s := rfl

theorem step_engine_turn (s : State) : step { s with port := .engine :: s.port } = engineStep s := rfl

theorem step_reset_turn (s : State) : step { s with port := .reset :: s.port } = .next s.assertReset := rfl

@[simp] theorem takeTurns_nil (s : State) : takeTurns [] s = .next s := rfl

/-- Turns in two parts: the second part from where the first ends. -/
theorem takeTurns_append {turns : List Turn} {s t : State} (h : takeTurns turns s = .next t) (later : List Turn) :
    takeTurns (turns ++ later) s = takeTurns later t := by
  induction turns generalizing s with
  | nil => cases h; rfl
  | cons turn turns ih =>
    simp only [takeTurns, List.cons_append] at h ⊢
    split at h
    · exact ih h
    · cases h
    · cases h

theorem takeTurns_host (t : Transaction) (s : State) : takeTurns [.host t] s = exec (decode t) s := by
  simp only [takeTurns, step_host_turn]
  split <;> simp_all

/-- Engine turns with nothing between them are an engine run. -/
theorem takeTurns_engine (k : Nat) (s : State) : takeTurns (List.replicate k .engine) s = engineRun k s := by
  induction k generalizing s with
  | zero => rfl
  | succ k ih =>
    simp only [List.replicate_succ, takeTurns, step_engine_turn, engineRun]
    split <;> simp_all

@[simp] theorem decode_status_line : decode ScriptItem.poll.nextLine.transaction = .rdStatus := by decide

/-- Bit 0 of `STATUS` is `BUSY`, the bit that `POLL` looks at. -/
theorem statusWord_busy (s : State) : (statusWord s).getLsbD 0 = s.busy := by
  cases hb : s.busy <;> simp [statusWord, hb]

/-- A read with `BUSY = 1` leaves the `POLL` to be performed again. -/
theorem HostRun.performed_poll_again {t : State} (h : t.rdata.getLsbD 0 = true) (rest : List ScriptItem) (r : HostRun) :
    r.performed .poll rest t = { r with reads := r.reads ++ [t.rdata], state := t } := if_pos h

/-- A read with `BUSY = 0` ends the `POLL` and is its result. -/
theorem HostRun.performed_poll_ends {t : State} (h : t.rdata.getLsbD 0 = false) (rest : List ScriptItem) (r : HostRun) :
    r.performed .poll rest t =
      { items := rest, reads := r.reads ++ [t.rdata], results := r.results ++ [t.rdata], state := t } :=
  if_neg (by rw [h]; exact Bool.false_ne_true)

@[simp] theorem runScript_nil (r : HostRun) : runScript [] r = .next r := rfl

/-- A program with no item left is over. -/
theorem runScript_over {r : HostRun} (h : r.items = []) (schedule : List (List Turn)) : runScript schedule r = .next r := by
  cases schedule with
  | nil => rfl
  | cons turns schedule => simp only [runScript, h]

/-- One item: the others' turns, the item's transaction, the rest of the program. -/
theorem runScript_item {r : HostRun} {item : ScriptItem} {rest : List ScriptItem} {turns : List Turn} {t u : State}
    (hi : r.items = item :: rest) (ht : takeTurns turns r.state = .next t)
    (hu : exec (decode item.nextLine.transaction) t = .next u) (schedule : List (List Turn)) :
    runScript (turns :: schedule) r = runScript schedule (r.performed item rest u) := by
  simp only [runScript, hi, takeTurns_append ht, takeTurns_host, hu]

end Sys2Proof.Machine
end

