-- ==== Sys2Proof/Tests/Slice0.lean ====
section
/-! SUPPORT. The model's own tests, each with its expected result taken from spec/, and for every statement with
hypotheses a witness that meets them. -/
open Sys2Proof Sys2Proof.Machine

namespace Sys2Proof.Tests

/-! ### Helpers -/

def nextOf : Result → Option State
  | .next t => some t
  | .fault _ => none
  | .refused _ => none

def faultOf : Result → Option Fault
  | .next _ => none
  | .fault f => some f
  | .refused _ => none

/-- What a host read returns. -/
def returned (r : Result) : Option Word := (nextOf r).map State.rdata

/-- The block of 95_test_vectors.md section 2.4, after reset. -/
def blank : State := State.resetOf { srcDepth := 256, dstDepth := 1024 }

/-- A command that has been accepted. -/
def command (srcWc dstWc : BitVec 2) (bitsIn bitsOut bitsLimit srcLen : Word) : State :=
  { State.reset with busy := true, phase := .validate, srcWc, dstWc, bitsIn, bitsOut, bitsLimit, srcLen }

/-- EX3 of 95_test_vectors.md: `repack([5, 5], 3, 4, 8)`, `W1 = 16`, `W2 = 8`. -/
def ex3 : State := { command 1 0 3 4 8 2 with src := [(0, 5), (1, 5)] }

def ex3Clear (clr : Word) (dst : Memory) : State := { ex3 with phase := .clear, n := 2, clr, dst }

def ex3Copy (pos : Word) (dst : Memory) : State := { ex3 with phase := .copy, n := 2, clr := 2, pos, dst }

/-- The block with its last source entry written and named by `SRC_IDX`. -/
def lastSrc : State := { blank with srcIdx := 255, src := [(255, 5)] }

/-- The block with its last destination entry written and named by `DST_IDX`. -/
def lastDst : State := { blank with dstIdx := 1023, dst := [(1023, 5)] }

/-- A command of four steps: one bit, `SRC = [1]`. -/
def oneBit : State := { command 0 0 1 1 1 1 with src := [(0, 1)] }

/-! ### Decoding: 30_encoding.md R59, R62, bit 12 `RW`, bits 11:3 the slot, bits 2:0 ignored -/

theorem test_decode_reads :
    decodeTableWord 16 0b0000000000000 = some .rdCtrl ∧ decodeTableWord 16 0b0000000001000 = some .rdStatus ∧
    decodeTableWord 16 0b0000000010000 = some .rdCfg ∧ decodeTableWord 16 0b0000000011000 = some .rdBitsIn ∧
    decodeTableWord 16 0b0000000100000 = some .rdBitsOut ∧ decodeTableWord 16 0b0000000101000 = some .rdBitsLimit ∧
    decodeTableWord 16 0b0000000110000 = some .rdSrcLen ∧ decodeTableWord 16 0b0000000111000 = some .rdOutLen ∧
    decodeTableWord 16 0b0000001000000 = some .rdSrcIdx ∧ decodeTableWord 16 0b0000001001000 = some .rdSrcData ∧
    decodeTableWord 16 0b0000001010000 = some .rdDstIdx ∧ decodeTableWord 16 0b0000001011000 = some .rdDstData ∧
    decodeTableWord 16 0b0000001100111 = some .rdCaps ∧ decodeTableWord 16 0b0000001101000 = some (.rdRsvd 13) := by
  decide

/-- `WDATA` stands above the selector's two bytes (log entry 8). -/
theorem test_decode_writes :
    decodeTableWord 80 0x0000000000000001_1000 = some (.wrCtrl 1) ∧
    decodeTableWord 80 0x000000000000FFFF_1008 = some (.wrStatus 0xFFFF) ∧
    decodeTableWord 80 0x0000000000000102_1010 = some (.wrCfg 0x102) ∧
    decodeTableWord 80 0x0000000000000003_1018 = some (.wrBitsIn 3) ∧
    decodeTableWord 80 0x0000000000000002_1020 = some (.wrBitsOut 2) ∧
    decodeTableWord 80 0xFFFFFFFFFFFFFFFF_1028 = some (.wrBitsLimit 0xFFFFFFFFFFFFFFFF) ∧
    decodeTableWord 80 0x8000000000000000_1030 = some (.wrSrcLen 0x8000000000000000) ∧
    decodeTableWord 80 0x0000000000000009_1038 = some (.wrOutLen 9) ∧
    decodeTableWord 80 0x0000000000000100_1040 = some (.wrSrcIdx 256) ∧
    decodeTableWord 80 0x0123456789ABCDEF_104C = some (.wrSrcData 0x0123456789ABCDEF) ∧
    decodeTableWord 80 0x0000000000000004_1050 = some (.wrDstIdx 4) ∧
    decodeTableWord 80 0x0000000000000007_1058 = some (.wrDstData 7) ∧
    decodeTableWord 80 0x0000000000000000_1060 = some (.wrCaps 0) ∧
    decodeTableWord 80 0x0000000000000001_1100 = some (.wrRsvd 32 1) := by
  decide

/-- Fewer than ten bytes are no transaction. -/
theorem test_decode_truncated : decodeBytes [0x08, 0x00] = .error .truncated := by rfl

/-- 30_encoding.md R62: the selector of `WR SRC_DATA`, and of the raw offset 0xFFF. -/
theorem test_table_rows : tableMnemonic 0x1048 = some "WR_SRC_DATA" ∧ tableMnemonic 0x0FFF = some "RD_RSVD" := by
  decide

/-- 30_encoding.md R68: `CONFIG 1, 0, 3, 2, 6, 2` of program P1 begins with `WR CFG, 0x001` (0x1010 / 0x1). -/
theorem test_config_lines :
    ((Pseudo.config 1 0 3 2 6 2).expand.map fun i => i.nextLine.transaction).head? = some ⟨true, 0x010, 1⟩ ∧
    (Pseudo.config 1 0 3 2 6 2).expand.length = 5 := by
  decide

/-! ### WellFormed: the named slots are no reserved slots -/

theorem test_reserved_read_of_named_slot_refused :
    ∀ k, k < 13 → (Instr.rdRsvd (BitVec.ofNat 9 k)).wellFormed = false := by decide

theorem test_reserved_write_of_named_slot_refused :
    ∀ k, k < 13 → (Instr.wrRsvd (BitVec.ofNat 9 k) 1).wellFormed = false := by decide

theorem test_reserved_slots_accepted :
    (Instr.rdRsvd 13).wellFormed = true ∧ (Instr.wrRsvd 511 0).wellFormed = true := by decide

/-! ### Host transactions: 40_register_access.md R70 to R97 and 95_test_vectors.md section 2.4 -/

/-- R70: after `WR CTRL, 1`, `RD CTRL` returns 0. -/
theorem test_rdCtrl : returned (exec .rdCtrl { command 0 0 0 0 0 0 with rdata := 7 }) = some 0 := by decide

/-- R71: 0x402 after `LimitNotAligned`, 0x001 while busy. -/
theorem test_rdStatus :
    returned (exec .rdStatus { blank with done := true, ecode := 4 }) = some 0x402 ∧
    returned (exec .rdStatus ex3) = some 0x001 := by decide

/-- V-R3: `RD CFG` gives 0x303. -/
theorem test_rdCfg : returned (exec .rdCfg { blank with srcWc := 3, dstWc := 3 }) = some 0x303 := by decide

/-- R75: returns the stored value even when no command accepts it (65). -/
theorem test_rdBitsIn : returned (exec .rdBitsIn { blank with bitsIn := 65 }) = some 65 := by decide

/-- R77: after `WR BITS_OUT, 2`, returns 2. -/
theorem test_rdBitsOut : returned (exec .rdBitsOut { blank with bitsOut := 2 }) = some 2 := by decide

/-- R79: after `WR BITS_LIMIT, 6`, returns 6. -/
theorem test_rdBitsLimit : returned (exec .rdBitsLimit { blank with bitsLimit := 6 }) = some 6 := by decide

/-- R81: after reset returns 0. -/
theorem test_rdSrcLen : returned (exec .rdSrcLen { blank with rdata := 9 }) = some 0 := by decide

/-- R83: after the command `repack([5, 5], 3, 2, 6)` returns 3. -/
theorem test_rdOutLen : returned (exec .rdOutLen { blank with done := true, outLen := 3 }) = some 3 := by decide

/-- V-R6: `SRC_IDX = 257` is returned although `SRC_DEPTH = 256`. -/
theorem test_rdSrcIdx : returned (exec .rdSrcIdx { blank with srcIdx := 257, dstIdx := 1 }) = some 257 := by decide

/-- V-R5: all 64 bits, and the index advances. -/
theorem test_rdSrcData :
    (nextOf (exec .rdSrcData { blank with src := [(0, 0xFFF5)] })).map (fun t => (t.rdata, t.srcIdx)) =
      some (0xFFF5, 1) := by decide

/-- 70_reset_and_hazards.md R136: an entry not written since reset. -/
theorem test_rdSrcData_unwritten : faultOf (exec .rdSrcData blank) = some (.unwrittenSrc 0) := by decide

/-- R89: after `READDST 0, 3` returns 3. -/
theorem test_rdDstIdx : returned (exec .rdDstIdx { blank with dstIdx := 3 }) = some 3 := by decide

/-- Program P1: the second `RD DST_DATA` returns 3. -/
theorem test_rdDstData :
    (nextOf (exec .rdDstData { blank with dst := [(0, 2), (1, 3), (2, 1)], dstIdx := 1 })).map
      (fun t => (t.rdata, t.dstIdx)) = some (3, 2) := by decide

/-- V-R11: while busy 0, and `DST_IDX` unchanged. -/
theorem test_rdDstData_busy :
    (nextOf (exec .rdDstData { ex3 with dst := [(0, 2)] })).map (fun t => (t.rdata, t.dstIdx)) = some (0, 0) := by
  decide

/-- V-R2. -/
theorem test_rdCaps : returned (exec .rdCaps blank) = some 0x0000040000000100 := by decide

/-- V-R8: `RD @0x100` gives 0. -/
theorem test_rdRsvd : returned (exec (.rdRsvd 32) { blank with rdata := 5 }) = some 0 := by decide

/-- V-R9: `WR CTRL, 0` starts no command. -/
theorem test_wrCtrl_zero : nextOf (exec (.wrCtrl 0) blank) = some blank := by decide

/-- R97: only bit 0 is looked at; `STATUS` becomes 0x1 and `OUT_LEN` 0. -/
theorem test_wrCtrl_start :
    nextOf (exec (.wrCtrl 0xF1) { blank with done := true, ecode := 4, outLen := 3 }) =
      some { blank with busy := true, phase := .validate } := by decide

/-- V-R8. -/
theorem test_wrStatus : nextOf (exec (.wrStatus 0xFFFF) blank) = some blank := by decide

/-- V-R3: the two codes, and nothing of the other bits. -/
theorem test_wrCfg :
    nextOf (exec (.wrCfg 0xFFFFFFFFFFFFFFFF) blank) = some { blank with srcWc := 3, dstWc := 3 } := by decide

/-- R74: `WR CFG, 0x001` sets `W1 = 16`, `W2 = 8`. -/
theorem test_wrCfg_widths :
    (nextOf (exec (.wrCfg 0x001) blank)).map (fun t => (width t.srcWc, width t.dstWc)) = some (16, 8) := by decide

/-- R76. -/
theorem test_wrBitsIn : nextOf (exec (.wrBitsIn 3) blank) = some { blank with bitsIn := 3 } := by decide

/-- V-R10: ignored while busy. -/
theorem test_wrBitsIn_busy : nextOf (exec (.wrBitsIn 5) ex3) = some ex3 := by decide

/-- R78: 0 is stored. -/
theorem test_wrBitsOut :
    nextOf (exec (.wrBitsOut 0) { blank with bitsOut := 4 }) = some { blank with bitsOut := 0 } := by decide

/-- R80: any value is stored. -/
theorem test_wrBitsLimit :
    nextOf (exec (.wrBitsLimit 0xFFFFFFFFFFFFFFFF) blank) = some { blank with bitsLimit := 0xFFFFFFFFFFFFFFFF } := by
  decide

/-- R82. -/
theorem test_wrSrcLen : nextOf (exec (.wrSrcLen 2) blank) = some { blank with srcLen := 2 } := by decide

/-- V-R8. -/
theorem test_wrOutLen : nextOf (exec (.wrOutLen 9) blank) = some blank := by decide

/-- V-R6: an index beyond the depth is stored. -/
theorem test_wrSrcIdx : nextOf (exec (.wrSrcIdx 256) blank) = some { blank with srcIdx := 256 } := by decide

/-- V-R4: stored whole, and the index advances. -/
theorem test_wrSrcData :
    nextOf (exec (.wrSrcData 0xFFF5) blank) = some { blank with src := [(0, 0xFFF5)], srcIdx := 1 } := by decide

/-- V-R6: nothing stored at the depth, and the index advances. -/
theorem test_wrSrcData_beyond :
    nextOf (exec (.wrSrcData 9) { blank with srcIdx := 256 }) = some { blank with srcIdx := 257 } := by decide

/-- R90. -/
theorem test_wrDstIdx :
    nextOf (exec (.wrDstIdx 0) { blank with dstIdx := 3 }) = some { blank with dstIdx := 0 } := by decide

/-- V-R8: nothing changes, `DST_IDX` included. -/
theorem test_wrDstData : nextOf (exec (.wrDstData 7) blank) = some blank := by decide

/-- V-R8. -/
theorem test_wrCaps : nextOf (exec (.wrCaps 0) blank) = some blank := by decide

/-- V-R8: `WR @0x100, 1`. -/
theorem test_wrRsvd : nextOf (exec (.wrRsvd 32 1) blank) = some blank := by decide

/-! ### Engine steps: 95_test_vectors.md sections 2.1 and 2.2 -/

/-- V-E1a, V-E1b, V-E1c, V-E1d, V-E1e, V-E2a, V-E2b, V-E2c. -/
theorem test_validate_first_checks :
    failedCheck (command 1 0 0 2 6 1) = some .invalidParameter ∧
    failedCheck (command 1 0 3 0 6 1) = some .invalidParameter ∧
    failedCheck (command 1 0 3 2 0 1) = some .invalidParameter ∧
    failedCheck (command 0 0 0 9 0 1) = some .invalidParameter ∧
    failedCheck (command 0 0 0 0 0 0) = some .invalidParameter ∧
    failedCheck (command 0 0 9 2 6 1) = some .sourceWidthExceeded ∧
    failedCheck (command 0 0 9 9 7 1) = some .sourceWidthExceeded ∧
    failedCheck (command 3 3 65 1 1 1) = some .sourceWidthExceeded := by decide

/-- V-P2, V-E3a, V-E3b, V-P3, V-E4a, V-E4b, V-E8, V-E8b, V-E9, V-P9. -/
theorem test_validate_later_checks :
    failedCheck (command 0 0 8 8 8 1) = none ∧
    failedCheck (command 1 0 3 9 9 1) = some .destWidthExceeded ∧
    failedCheck (command 1 0 3 9 10 1) = some .destWidthExceeded ∧
    failedCheck (command 0 3 8 64 64 8) = none ∧
    failedCheck (command 1 0 3 2 7 1) = some .limitNotAligned ∧
    failedCheck (command 3 0 8 7 64 1) = some .limitNotAligned ∧
    failedCheck { command 1 0 3 2 6 5 with config := ⟨4, 16⟩ } = some .sourceCapacityExceeded ∧
    failedCheck { command 1 0 3 2 7 5 with config := ⟨4, 16⟩ } = some .limitNotAligned ∧
    failedCheck { command 1 0 3 2 6 1 with config := ⟨16, 2⟩ } = some .destCapacityExceeded ∧
    failedCheck { command 1 0 3 2 4 2 with config := ⟨16, 2⟩ } = none := by decide

/-- V-E9: `STATUS = 0x902` and `OUT_LEN = 0`. -/
theorem test_validate_fails :
    (nextOf (engineStep { command 1 0 3 2 6 1 with config := ⟨16, 2⟩ })).map
      (fun t => (statusWord t, t.outLen, t.phase)) = some (0x902, 0, .idle) := by decide

/-- 41_repack_command.md R105 on EX3: `n = 8 / 4`. -/
theorem test_validate_passes :
    nextOf (engineStep { ex3 with clr := 5 }) = some { ex3 with phase := .clear, n := 2, clr := 0 } := by decide

/-- 42_bit_copy_engine.md R109: the last CLEAR step starts the copy at position 0. -/
theorem test_clear :
    nextOf (engineStep { ex3Clear 1 [(0, 0), (1, 7)] with pos := 9 }) = some (ex3Copy 0 [(0, 0), (1, 0)]) := by decide

/-- The EX3 trace at `i = 3`: `DST[0]` goes from 0b1010 to 0b1011. -/
theorem test_copy :
    nextOf (engineStep (ex3Copy 3 [(0, 0b1010), (1, 0)])) = some (ex3Copy 4 [(0, 0b1011), (1, 0)]) := by decide

/-- The EX3 trace at `i = 7`: beyond the source, and the last position. -/
theorem test_copy_last :
    nextOf (engineStep (ex3Copy 7 [(0, 0b1011), (1, 0b0100)])) =
      some { ex3Copy 8 [(0, 0b1011), (1, 0b0100)] with phase := .complete } := by decide

/-- EX3: `STATUS = 0x002`, `OUT_LEN = 2`. -/
theorem test_complete :
    (nextOf (engineStep { ex3Copy 8 [(0, 0xB), (1, 4)] with phase := .complete })).map
      (fun t => (statusWord t, t.outLen, t.dst)) = some (0x002, 2, [(0, 0xB), (1, 4)]) := by decide

/-- 42_bit_copy_engine.md R117 on EX3: the closed form is `[0xB, 0x4]`. -/
theorem test_closedForm : closedForm ex3 0 = 0xB ∧ closedForm ex3 1 = 0x4 := by decide

/-- 70_reset_and_hazards.md R137: reset while busy. -/
theorem test_reset_turn :
    nextOf (step { ex3Copy 3 [(0, 0b1010), (1, 0)] with port := [.reset] }) = some State.reset := by decide

/-! ### Witnesses: encoding and steps -/

theorem witness_DecodeOfEncodeIsIdentity :
    (Instr.wrSrcData 5).wellFormed = true ∧ (Instr.rdRsvd 13).wellFormed = true ∧
    (Instr.wrRsvd 511 1).wellFormed = true := by decide

theorem witness_HostTurnRunsTheDecodedInstruction :
    { blank with port := [.host ⟨true, 0x018, 3⟩, .engine] }.port = .host ⟨true, 0x018, 3⟩ :: [.engine] ∧
    decode ⟨true, 0x018, 3⟩ = .wrBitsIn 3 ∧ decodeTableWord 16 0x0008 = some .rdStatus := by decide

theorem witness_EngineTurnIsOneEngineStep :
    { ex3 with port := [.engine] }.port = .engine :: [] ∧ ex3.port = [] ∧ blank.phase = .idle := by decide

theorem witness_ResetTurnRestoresResetState : { ex3 with port := [.reset, .engine] }.port = .reset :: [.engine] := by
  decide

/-! ### Witnesses: host transactions -/

theorem blank_as_after_reset : AsAfterReset blank :=
  ⟨by decide, by decide, by decide, by decide, by decide, by decide, fun _ => ⟨rfl, rfl⟩⟩

theorem witness_StatusReadAssemblesTheFlags :
    { blank with done := true, ecode := 4 }.busy = false ∧ { blank with done := true, ecode := 4 }.done = true ∧
    { blank with done := true, ecode := 4 }.ecode = 4 ∧ AsAfterReset blank :=
  ⟨rfl, rfl, rfl, blank_as_after_reset⟩

theorem witness_CfgStoresTheWidthCodesOnly : ex3.busy = true ∧ blank.busy = false := by decide

theorem witness_CapsReadShowsTheDepths : blank.config = ⟨256, 1024⟩ := by decide

/-- A register read, and each window read inside the buffer and at the depth. -/
theorem witness_OnlyWindowReadsHaveSideEffects :
    Instr.rdCaps.isWrite = false ∧ Instr.rdCaps ≠ .rdSrcData ∧ Instr.rdCaps ≠ .rdDstData ∧ blank.busy = false ∧
    (nextOf (exec .rdSrcData { blank with src := [(0, 5)] })).isSome = true ∧
    (nextOf (exec .rdDstData { blank with dstIdx := 1024 })).isSome = true := by decide

theorem witness_RegisterWritesStoreTheWord : blank.busy = false ∧ ex3.busy = true := by decide

theorem witness_BusyGatesEveryHostTransaction :
    ex3.busy = true ∧ (Instr.wrCtrl 1).isWrite = true ∧ Instr.rdStatus.isWrite = false := by decide

/-- Busy; the last entry, written and not; the depth and the largest index. -/
theorem witness_SourceWindowRead :
    ex3.busy = true ∧ blank.busy = false ∧ lastSrc.busy = false ∧
    lastSrc.srcIdx.toNat < lastSrc.config.srcDepth.toNat ∧ lastSrc.src.read lastSrc.srcIdx.toNat = some 5 ∧
    { blank with srcIdx := 255 }.src.read 255 = none ∧
    blank.config.srcDepth.toNat ≤ { blank with srcIdx := 256 }.srcIdx.toNat ∧
    blank.config.srcDepth.toNat ≤ { blank with srcIdx := 0xFFFFFFFFFFFFFFFF }.srcIdx.toNat := by decide

/-- Busy; the last entry, written and not; the depth and the largest index. -/
theorem witness_DestinationWindowRead :
    ex3.busy = true ∧ blank.busy = false ∧ lastDst.busy = false ∧
    lastDst.dstIdx.toNat < lastDst.config.dstDepth.toNat ∧ lastDst.dst.read lastDst.dstIdx.toNat = some 5 ∧
    { blank with dstIdx := 1023 }.dst.read 1023 = none ∧
    blank.config.dstDepth.toNat ≤ { blank with dstIdx := 1024 }.dstIdx.toNat ∧
    blank.config.dstDepth.toNat ≤ { blank with dstIdx := 0xFFFFFFFFFFFFFFFF }.dstIdx.toNat := by decide

theorem witness_SourceWindowWrite :
    ex3.busy = true ∧ blank.busy = false ∧
    { blank with srcIdx := 255 }.srcIdx.toNat < blank.config.srcDepth.toNat ∧
    blank.config.srcDepth.toNat ≤ { blank with srcIdx := 256 }.srcIdx.toNat := by decide

/-- V-R7: the index wraps. -/
theorem witness_OutOfRangeWindowAccessReachesNothing :
    blank.busy = false ∧ blank.config.srcDepth.toNat ≤ { blank with srcIdx := 0xFFFFFFFFFFFFFFFF }.srcIdx.toNat ∧
    blank.config.dstDepth.toNat ≤ { blank with dstIdx := 1024 }.dstIdx.toNat ∧
    returned (exec .rdSrcData { blank with srcIdx := 0xFFFFFFFFFFFFFFFF }) = some 0 := by decide

/-! ### Witnesses: who changes what -/

/-- The four steps that change the flags: an accepted `START`, an error, a completion and a reset. -/
theorem witness_FlagsChangeOnlyAtStartEndAndReset :
    (nextOf (step { blank with port := [.host ⟨true, 0, 1⟩] })).map State.busy = some true ∧
    (nextOf (step (command 0 0 0 0 0 0))).map State.ecode = some 1 ∧
    (nextOf (step { ex3 with phase := .complete })).map State.done = some true ∧
    (nextOf (step { ex3 with port := [.reset] })).map State.busy = some false := by decide

theorem witness_BuffersHaveOneWriterEach :
    (nextOf (exec (.wrSrcData 5) blank)).map State.src ≠ some blank.src ∧
    (nextOf (exec (.wrSrcData 5) blank)).isSome = true ∧ (nextOf (engineStep ex3)).isSome = true := by decide

theorem witness_OutLenChangesOnlyAtStartEndAndReset :
    (nextOf (step { blank with outLen := 3, port := [.host ⟨true, 0, 1⟩] })).map State.outLen = some 0 ∧
    (nextOf (step { ex3 with n := 2, phase := .complete })).map State.outLen = some 2 ∧
    (nextOf (step { blank with outLen := 3, port := [.reset] })).map State.outLen = some 0 := by decide

theorem witness_DepthsAreConstant :
    (nextOf (step { blank with port := [.reset] })).isSome = true ∧ (nextOf (step ex3)).isSome = true := by decide

theorem witness_OnlyTheEngineOrResetEndsACommand :
    ex3.busy = true ∧ (nextOf (step (command 0 0 0 0 0 0))).map State.busy = some false ∧
    (nextOf (step { ex3 with phase := .complete })).map State.busy = some false ∧
    (nextOf (step { ex3 with port := [.reset] })).map State.busy = some false := by decide

theorem witness_ParametersAreFrozenWhileBusy :
    ex3.busy = true ∧ (∀ rest, { ex3 with port := [.host ⟨true, 0x018, 5⟩] }.port ≠ .reset :: rest) ∧
    (nextOf (step { ex3 with port := [.host ⟨true, 0x018, 5⟩] })).isSome = true :=
  ⟨by decide, fun _ h => by simp at h, by decide⟩

/-! ### Witnesses: the command and the engine -/

theorem witness_StartIsAcceptedOnlyWhenIdle :
    ex3.busy = true ∧ blank.busy = false ∧ BitVec.getLsbD (0xFFFFFFFFFFFFFFFE : Word) 0 = false ∧
    BitVec.getLsbD (1 : Word) 0 = true := by decide

/-- Which of the six checks of 41_repack_command.md R98 pass, each on its own. -/
def checkList (s : State) : List Bool :=
  [decide (s.bitsIn ≠ 0 ∧ s.bitsOut ≠ 0 ∧ s.bitsLimit ≠ 0), decide (s.bitsIn.toNat ≤ 8 * 2 ^ s.srcWc.toNat),
   decide (s.bitsOut.toNat ≤ 8 * 2 ^ s.dstWc.toNat), decide (s.bitsLimit.toNat % s.bitsOut.toNat = 0),
   decide (s.srcLen.toNat ≤ s.config.srcDepth.toNat),
   decide (s.bitsLimit.toNat / s.bitsOut.toNat ≤ s.config.dstDepth.toNat)]

/-- One state for each clause, at the first value that fails, and one at the last values that pass. -/
theorem witness_ValidationReportsTheFirstFailure :
    (command 1 0 0 2 6 1).phase = .validate ∧ (checkList (command 1 0 0 2 6 1)).take 1 = [false] ∧
    (checkList (command 0 0 9 2 6 1)).take 2 = [true, false] ∧
    (checkList (command 1 0 3 9 9 1)).take 3 = [true, true, false] ∧
    (checkList (command 1 0 3 2 7 1)).take 4 = [true, true, true, false] ∧
    (checkList (command 1 0 3 2 6 17)).take 5 = [true, true, true, true, false] ∧
    checkList (command 1 0 3 2 34 1) = [true, true, true, true, true, false] ∧
    checkList (command 1 0 16 2 32 16) = [true, true, true, true, true, true] := by decide

theorem witness_FailedCommandChangesOnlyStatus :
    blank.phase = .idle ∧ blank.busy = false ∧ BitVec.getLsbD (1 : Word) 0 = true ∧
    failedCheck blank = some .invalidParameter ∧ (nextOf (exec (.wrCtrl 1) blank)).isSome = true := by decide

/-- A CLEAR step that is not the last, and the last. -/
theorem witness_ClearStepZeroesOneEntry :
    (ex3Clear 0 []).phase = .clear ∧ engineReady (ex3Clear 0 []) = true ∧
    (ex3Clear 0 []).clr.toNat + 1 ≠ (ex3Clear 0 []).n.toNat ∧ engineReady (ex3Clear 1 [(0, 0)]) = true ∧
    (ex3Clear 1 [(0, 0)]).clr.toNat + 1 = (ex3Clear 1 [(0, 0)]).n.toNat := by decide

/-- The corner cases of R110 and R111: one bit and 64 bits, the first and the last position. -/
theorem witness_PositionsMapInsideTheFields :
    (srcElement 1 7 = 7 ∧ srcShift 1 7 = 0) ∧ srcShift 64 64 = 63 ∧ srcShift 64 63 = 0 ∧
    (dstElement 1 7 = 7 ∧ dstShift 1 7 = 0) ∧ (128 % 64 = 0 ∧ dstElement 64 127 = 1 ∧ dstShift 64 127 = 0) ∧
    dstElement 4 5 = dstElement 4 5 := by decide

/-- Positions 3 (inside the source) and 6 (beyond it), neither the last, and 7, the last. -/
theorem witness_CopyStepOrsOneBit :
    (ex3Copy 3 [(0, 0b1010), (1, 0)]).phase = .copy ∧ engineReady (ex3Copy 3 [(0, 0b1010), (1, 0)]) = true ∧
    (ex3Copy 3 [(0, 0b1010), (1, 0)]).src.read (3 / 3) = some 5 ∧
    (ex3Copy 3 [(0, 0b1010), (1, 0)]).dst.read (3 / 4) = some 0b1010 ∧
    ¬ 6 / 3 < (ex3Copy 6 [(0, 0b1011), (1, 4)]).srcLen.toNat ∧
    (ex3Copy 6 [(0, 0b1011), (1, 4)]).dst.read (6 / 4) = some 4 ∧
    (ex3Copy 7 [(0, 0b1011), (1, 4)]).pos.toNat + 1 = (ex3Copy 7 [(0, 0b1011), (1, 4)]).bitsLimit.toNat := by decide

theorem witness_CopyStepFaultsOnUnwrittenSource :
    { ex3Copy 3 [(0, 0b1010), (1, 0)] with src := [(0, 5)] }.phase = .copy ∧
    engineReady { ex3Copy 3 [(0, 0b1010), (1, 0)] with src := [(0, 5)] } = true ∧
    3 / 3 < ex3.srcLen.toNat ∧ Memory.read (3 / 3) [(0, 5)] = none := by decide

theorem witness_CompleteStepPublishesTheResult : { ex3 with phase := .complete }.phase = .complete := by decide

/-! ### Witnesses: the invariant -/

theorem witness_ResetMeetsTheInvariant : Config.Legal ⟨1, 0xFFFFFFFF⟩ := by decide

/-- A state in the middle of EX3's copy, with a host turn waiting, meets the invariant and steps. -/
theorem ex3Copy_inv : Inv { ex3Copy 3 [(0, 0b1010), (1, 0)] with port := [.host ⟨false, 0x008, 0⟩] } := by
  constructor <;> decide

theorem witness_EveryStepKeepsTheInvariant :
    Inv { ex3Copy 3 [(0, 0b1010), (1, 0)] with port := [.host ⟨false, 0x008, 0⟩] } ∧
    (nextOf (step { ex3Copy 3 [(0, 0b1010), (1, 0)] with port := [.host ⟨false, 0x008, 0⟩] })).isSome = true :=
  ⟨ex3Copy_inv, by decide⟩

/-- One state for each way to stop: the host reads an unwritten entry of `SRC`, the host one of `DST`. -/
theorem witness_OnlyUnwrittenReadsStopTheMachine :
    Inv { blank with port := [.host ⟨false, 0x048, 0⟩] } ∧ Inv { blank with port := [.host ⟨false, 0x058, 0⟩] } ∧
    faultOf (step { blank with port := [.host ⟨false, 0x048, 0⟩] }) = some (.unwrittenSrc 0) ∧
    faultOf (step { blank with port := [.host ⟨false, 0x058, 0⟩] }) = some (.unwrittenDst 0) :=
  ⟨by constructor <;> decide, by constructor <;> decide, by decide, by decide⟩

theorem witness_ReachableStatesMeetTheInvariant : Reachable { blank with bitsIn := 3 } :=
  .step { blank with port := [.host ⟨true, 0x018, 3⟩] } _ (.start _ _ (by decide)) rfl

/-! ### Witnesses: whole commands -/

theorem oneBit_ready : CommandReady oneBit := ⟨rfl, by decide, by unfold SourceWritten; decide⟩

theorem witness_CommandEndsAfterItsSteps : CommandReady oneBit ∧ commandSteps oneBit = 4 := ⟨oneBit_ready, by decide⟩

theorem witness_CommandLeavesTheClosedForm :
    CommandReady oneBit ∧ (nextOf (engineRun (commandSteps oneBit) oneBit)).map State.dst = some [(0, 1)] :=
  ⟨oneBit_ready, by decide⟩

/-- Position 0 lies inside the source; a source of length 0 puts it beyond. -/
theorem witness_OutputIsTheLogicalBitStream :
    CommandReady oneBit ∧ (nextOf (engineRun (commandSteps oneBit) oneBit)).isSome = true ∧
    CommandReady { oneBit with srcLen := 0 } ∧
    (nextOf (engineRun (commandSteps { oneBit with srcLen := 0 }) { oneBit with srcLen := 0 })).map State.dst =
      some [(0, 0)] :=
  ⟨oneBit_ready, by decide, ⟨rfl, by decide, by unfold SourceWritten; decide⟩, by decide⟩

/-- `oneBit` with other bits at or above `BITS_IN` and another entry beyond `SRC_LEN`. -/
def oneBit' : State := { oneBit with src := [(0, 0xFFF1), (1, 7)] }

theorem witness_IgnoredSourceBitsCannotMatter :
    CommandReady oneBit ∧ CommandReady oneBit' ∧
    (∀ k x x' b, k < oneBit.srcLen.toNat → oneBit.src.read k = some x → oneBit'.src.read k = some x' →
      b < oneBit.bitsIn.toNat → k * oneBit.bitsIn.toNat + (oneBit.bitsIn.toNat - 1 - b) < oneBit.bitsLimit.toNat →
      x'.getLsbD b = x.getLsbD b) ∧
    (nextOf (engineRun (commandSteps oneBit) oneBit)).isSome = true ∧
    (nextOf (engineRun (commandSteps oneBit') oneBit')).isSome = true := by
  refine ⟨oneBit_ready, ⟨rfl, by decide, by unfold SourceWritten; decide⟩, ?_, by decide, by decide⟩
  intro k x x' b hk hx hx' hb _
  obtain rfl : k = 0 := Nat.lt_one_iff.1 hk
  obtain rfl : b = 0 := Nat.lt_one_iff.1 hb
  cases hx
  cases hx'
  decide

/-- `SRC = [2]`, two bits to one bit each. -/
def narrow : State := { command 0 0 2 1 2 1 with src := [(0, 2)] }

/-- The result of `narrow` back to two bits. -/
def widen : State := { command 0 0 1 2 2 2 with src := [(0, 1), (1, 0)] }

theorem witness_RoundTripRestoresTheSource :
    CommandReady narrow ∧ CommandReady widen ∧
    (nextOf (engineRun (commandSteps narrow) narrow)).map (fun t => (t.outLen, t.dst)) =
      some (widen.srcLen, widen.src) ∧
    (nextOf (engineRun (commandSteps widen) widen)).map State.dst = some [(0, 2)] ∧
    narrow.srcLen.toNat * narrow.bitsIn.toNat ≤ narrow.bitsLimit.toNat ∧
    widen.bitsLimit.toNat = narrow.srcLen.toNat * narrow.bitsIn.toNat :=
  ⟨⟨rfl, by decide, by unfold SourceWritten; decide⟩, ⟨rfl, by decide, by unfold SourceWritten; decide⟩,
    by decide, by decide, by decide, by decide⟩

theorem witness_HostCannotObserveARunningCommand :
    oneBit.busy = true ∧ (nextOf (engineRun 2 oneBit)).map State.busy = some true := by decide

theorem witness_HostTurnsDoNotDisturbARunningCommand :
    oneBit.busy = true ∧ Turn.reset ∉ [Turn.engine, .host ⟨true, 0x018, 5⟩, .engine, .host ⟨false, 0x058, 0⟩] ∧
    (nextOf (engineRun ([Turn.engine, .host ⟨true, 0x018, 5⟩, .engine, .host ⟨false, 0x058, 0⟩].count Turn.engine)
      oneBit)).map State.busy = some true := by decide

/-! ### Host programs: 30_encoding.md R68 and 95_test_vectors.md section 3 -/

/-- What a host has read, its results, and whether its program is over. -/
def observed (r : Host.Outcome HostRun Fault Refusal) : Option (List Word × List Word × Bool) :=
  match r with
  | .next r => some (r.reads, r.results, r.items.isEmpty)
  | .fault _ => none
  | .refused _ => none

/-- `oneBit` before its `START`. -/
def oneBitIdle : State := { oneBit with busy := false, phase := .idle }

/-- `RUN` of a four-step command: two reads of 0x001, then 0x002, which is the result; the last entry is not used. -/
theorem test_run_polls_until_not_busy :
    observed (runScript [[.engine], [], [.engine, .engine], [.engine, .engine], [.engine]]
      (.begin (Pseudo.expand .run) oneBitIdle)) = some ([0x001, 0x001, 0x002], [0x002], true) := by decide

/-- `RUN` straight after reset, V-E1e: 0x102. -/
theorem test_run_reports_error :
    observed (runScript [[], [.engine]] (.begin (Pseudo.expand .run) blank)) = some ([0x102], [0x102], true) := by decide

/-- `LOADSRC 0, 5, 5`, R85 and R88: the source is `[5, 5]` and `SRC_IDX` is 2. -/
theorem test_loadSrc :
    (match runScript [[], [], []] (.begin (Pseudo.expand (.loadSrc 0 [5, 5])) blank) with
      | .next r => some (r.state.src, r.state.srcIdx)
      | _ => none) = some ([(0, 5), (1, 5)], 2) := by decide

/-- `READDST 0, 3` after program P1, R91: 2, 3, 1. -/
theorem test_readDst :
    observed (runScript [[], [], [], []]
      (.begin (Pseudo.expand (.readDst 0 3)) { blank with dst := [(0, 2), (1, 3), (2, 1)] })) =
      some ([2, 3, 1], [2, 3, 1], true) := by decide

/-! ### Witnesses: host programs -/

/-- A line, and a `POLL` on a busy and on an idle block; the turns before them are the engine's and another master's. -/
theorem witness_PseudoInstructionsRunAsWritten :
    (HostRun.begin (Pseudo.expand .start) blank).items = .line (.wr (.named .ctrl) 1) :: [] ∧
    (nextOf (exec (decode (Line.wr (.named .ctrl) 1).transaction) blank)).isSome = true ∧
    (HostRun.begin (Pseudo.expand .poll) ex3).items = .poll :: [] ∧
    (nextOf (takeTurns [.engine, .host ⟨false, 0x000, 0⟩] ex3)).map State.busy = some true ∧
    (nextOf (takeTurns [.engine] blank)).map State.busy = some false := by decide

/-- A `POLL` that ends and one that does not. -/
theorem witness_PollEndsAtTheFirstReadOfNotBusy :
    observed (runScript [[], [.engine], [.reset]] (.begin (Pseudo.expand .poll) oneBit)) =
      some ([0x001, 0x001, 0], [0], true) ∧
    observed (runScript [[], [.engine]] (.begin (Pseudo.expand .poll) oneBit)) = some ([0x001, 0x001], [], false) := by
  decide

/-- A command that ends with success and one that ends with an error. -/
theorem witness_RunReportsTheOutcomeOfItsCommand :
    (oneBitIdle.phase = .idle ∧ oneBitIdle.busy = false ∧ failedCheck oneBitIdle = none ∧ SourceWritten oneBitIdle) ∧
    (∀ turns ∈ [[], [Turn.engine, .engine, .engine, .engine]], ∀ turn ∈ turns, turn = .engine) ∧
    observed (runScript [[], [.engine, .engine, .engine, .engine]] (.begin (Pseudo.expand .run) oneBitIdle)) =
      some ([0x002], [0x002], true) ∧
    (blank.phase = .idle ∧ blank.busy = false ∧ failedCheck blank = some .invalidParameter) ∧
    observed (runScript [[], [.engine]] (.begin (Pseudo.expand .run) blank)) = some ([0x102], [0x102], true) :=
  ⟨⟨by decide, by decide, by decide, by unfold SourceWritten; decide⟩, by decide, by decide, by decide, by decide⟩

/-- The shortest schedules of the two cases. -/
theorem witness_RunEndsUnderAFairSchedule :
    (oneBitIdle.phase = .idle ∧ oneBitIdle.busy = false ∧ failedCheck oneBitIdle = none ∧ SourceWritten oneBitIdle) ∧
    (∀ turns ∈ List.replicate 5 [Turn.engine], turns ≠ [] ∧ ∀ turn ∈ turns, turn = .engine) ∧
    1 + commandSteps oneBitIdle ≤ (List.replicate 5 [Turn.engine]).length ∧
    (blank.phase = .idle ∧ blank.busy = false ∧ failedCheck blank ≠ none) ∧
    1 + 1 ≤ (List.replicate 2 [Turn.engine]).length :=
  ⟨⟨by decide, by decide, by decide, by unfold SourceWritten; decide⟩, by decide, by decide, by decide, by decide⟩

end Sys2Proof.Tests
end

/-! ### The invariant after reset -/

namespace Sys2Proof.Machine

/-- Reset clears the flags and the output length and empties the buffers (70_reset_and_hazards.md R135, R136); its phase
IDLE meets the premise of no clause about a running command. What the block keeps over a reset, `rdata` and `port`, is arbitrary: no clause speaks of it. -/
theorem resetOf_inv {c : Config} (hc : c.Legal) (rdata : Word) (port : List Turn) :
    Inv { State.resetOf c with rdata, port } where
  config_legal := hc
  busy_iff := by simp
  not_busy_and_done := by simp
  ecode_zero_unless_done _ := resetOf_ecode c
  ecode_produced := .inl (resetOf_ecode c)
  no_output_unless_success _ := resetOf_outLen c
  output_fits := by simp
  output_written := by simp
  src_wf := rfl
  src_within := rfl
  dst_wf := rfl
  dst_within := rfl
  running_ready := by simp
  clear_progress := by simp
  copy_progress := by simp
  complete_progress := by simp

/-- Settles O39: the waiting turns are one of the two fields the invariant leaves free, and the other is 0. -/
theorem resetMeetsTheInvariant : Obligations.ResetMeetsTheInvariant := by
  unfold Obligations.ResetMeetsTheInvariant
  intro c port hc
  exact resetOf_inv hc 0 port

end Sys2Proof.Machine

/-! ### What one step of each agent can do -/

namespace Sys2Proof.Machine

/-- The three ways a step is taken: by the host's turn, by the engine's, or by reset. -/
inductive StepTurn (s t : State) : Prop where
  | host (x : Transaction) (rest : List Turn) : s.port = .host x :: rest →
      exec (decode x) { s with port := rest } = .next t → StepTurn s t
  | engine : (s.port = [] ∨ ∃ rest, s.port = .engine :: rest) →
      engineStep { s with port := s.port.tail } = .next t → StepTurn s t
  | reset (rest : List Turn) : s.port = .reset :: rest →
      t = { State.resetOf s.config with rdata := s.rdata, port := rest } → StepTurn s t

theorem step_turn {s t : State} (h : step s = .next t) : StepTurn s t := by
  unfold step at h
  cases hp : s.port with
  | nil =>
    rw [takeTurn_nil hp] at h
    have hs : { s with port := s.port.tail } = s := by rw [hp, List.tail_nil, ← hp]
    exact .engine (.inl hp) (by rw [hs]; exact h)
  | cons turn rest =>
    rw [takeTurn_cons hp] at h
    cases turn with
    | host x => exact .host x rest hp h
    | engine => exact .engine (.inr ⟨rest, hp⟩) (by rwa [hp])
    | reset => cases h; exact .reset rest hp rfl

/-- The memory a COPY step leaves, given the source value and the destination entry it read. -/
def copiedDst (s : State) (v old : Word) : Memory :=
  s.dst.write (dstElement s.bitsOut.toNat s.pos.toNat)
    (accumulate old (extractBit v (srcShift s.bitsIn.toNat s.pos.toNat)) (dstShift s.bitsOut.toNat s.pos.toNat))

theorem copied_more {s : State} (v old : Word) (h : s.pos + 1 ≠ s.bitsLimit) :
    copied s v old = { s with dst := copiedDst s v old, pos := s.pos + 1 } := if_neg h

theorem copied_last {s : State} (v old : Word) (h : s.pos + 1 = s.bitsLimit) :
    copied s v old = { s with dst := copiedDst s v old, pos := s.pos + 1, phase := .complete } := if_pos h

/-- What a COPY step has found before it writes (42_bit_copy_engine.md R112, R114). -/
structure CopyReads (s : State) (v old : Word) : Prop where
  ready : engineReady s = true
  inside : s.pos.toNat < s.bitsLimit.toNat
  source : sourceValue s (srcElement s.bitsIn.toNat s.pos.toNat) = some v
  entry : s.dst.read (dstElement s.bitsOut.toNat s.pos.toNat) = some old

/-- The ways an engine step leaves the state, one for each rule of its phase. -/
inductive EngineEffect (s : State) : State → Prop where
  | rest : s.phase = .idle → EngineEffect s s
  | error (e : ErrorCode) : s.phase = .validate → failedCheck s = some e → EngineEffect s (s.raiseError e)
  | pass : s.phase = .validate → failedCheck s = none →
      EngineEffect s { s with n := outputLength s, clr := 0, phase := .clear }
  | clearMore : s.phase = .clear → engineReady s = true → s.clr.toNat + 1 < s.n.toNat →
      EngineEffect s { s with dst := s.dst.write s.clr.toNat 0, clr := s.clr + 1 }
  | clearLast : s.phase = .clear → engineReady s = true → s.clr.toNat + 1 = s.n.toNat →
      EngineEffect s { s with dst := s.dst.write s.clr.toNat 0, clr := s.clr + 1, pos := 0, phase := .copy }
  | copyMore (v old : Word) : s.phase = .copy → CopyReads s v old → s.pos.toNat + 1 < s.bitsLimit.toNat →
      EngineEffect s { s with dst := copiedDst s v old, pos := s.pos + 1 }
  | copyLast (v old : Word) : s.phase = .copy → CopyReads s v old → s.pos.toNat + 1 = s.bitsLimit.toNat →
      EngineEffect s { s with dst := copiedDst s v old, pos := s.pos + 1, phase := .complete }
  | complete : s.phase = .complete → EngineEffect s { s.flagsEnded 0 with outLen := s.n, phase := .idle }

/-- Everything an engine step that answers a next state can have done. -/
theorem engineStep_effect {s t : State} (h : engineStep s = .next t) : EngineEffect s t := by
  unfold engineStep at h
  split at h
  next hph => cases h; exact .rest hph
  next hph =>
    cases hc : failedCheck s with
    | none => rw [validateStep_passes hc] at h; cases h; exact .pass hph hc
    | some e => rw [validateStep_fails hc] at h; cases h; exact .error e hph hc
  next hph =>
    obtain ⟨hr, hlt, rfl⟩ := clearStep_next h
    split
    next hlast => exact .clearLast hph hr ((succ_eq_iff hlt).1 hlast)
    next hmore => exact .clearMore hph hr (lt_of_le_of_ne hlt (mt (succ_eq_iff hlt).2 hmore))
  next hph =>
    obtain ⟨hr, hlt, v, old, hv, ho, rfl⟩ := copyStep_next h
    by_cases hlast : s.pos + 1 = s.bitsLimit
    · rw [copied_last v old hlast]
      exact .copyLast v old hph ⟨hr, hlt, hv, ho⟩ ((succ_eq_iff hlt).1 hlast)
    · rw [copied_more v old hlast]
      exact .copyMore v old hph ⟨hr, hlt, hv, ho⟩ (lt_of_le_of_ne hlt (mt (succ_eq_iff hlt).2 hlast))
  next hph => cases h; exact .complete hph

/-! ### What a step leaves unchanged -/

/-- The flags and the output length, which only the start and the end of a command and reset write. -/
structure StatusKept (s t : State) : Prop where
  busy : t.busy = s.busy
  done : t.done = s.done
  ecode : t.ecode = s.ecode
  outLen : t.outLen = s.outLen

theorem StatusKept.refl (s : State) : StatusKept s s := ⟨rfl, rfl, rfl, rfl⟩

theorem HostEffect.status_kept {i : Instr} {s t : State} (h : HostEffect i s t) :
    StatusKept s t ∨ ∃ w, i = .wrCtrl w ∧ startBit w = true ∧ s.busy = false := by
  cases h with
  | start w hb hi hw => exact .inr ⟨w, hi, hw, hb⟩
  | store w hb hi => rw [storeSrc_eq]; exact .inl ⟨rfl, rfl, rfl, rfl⟩
  | reply v => exact .inl ⟨rfl, rfl, rfl, rfl⟩
  | nothing => exact .inl (.refl s)
  | registers => exact .inl ⟨rfl, rfl, rfl, rfl⟩

theorem EngineEffect.status_kept {s t : State} (h : EngineEffect s t) :
    StatusKept s t ∨ (s.phase = .validate ∧ failedCheck s ≠ none) ∨ s.phase = .complete := by
  cases h with
  | error e hph he => exact .inr (.inl ⟨hph, by simp [he]⟩)
  | complete hph => exact .inr (.inr hph)
  | rest => exact .inl (.refl s)
  | pass | clearMore | clearLast | copyMore | copyLast => exact .inl ⟨rfl, rfl, rfl, rfl⟩

/-- While busy the data last read is all a host transaction changes (10_state.md R26). -/
theorem HostEffect.reply_of_busy {i : Instr} {s t : State} (h : HostEffect i s t) (hb : s.busy = true) :
    ∃ v, t = s.reply v := by
  cases h with
  | reply v => exact ⟨v, rfl⟩
  | nothing => exact ⟨s.rdata, rfl⟩
  | registers _ _ _ _ _ _ _ _ _ hidle => simp [hb] at hidle
  | store _ hidle => simp [hb] at hidle
  | start _ hidle => simp [hb] at hidle

theorem HostEffect.config_eq {i : Instr} {s t : State} (h : HostEffect i s t) : t.config = s.config := by
  cases h with
  | store => simp [storeSrc_eq]
  | reply | nothing | registers | start => rfl

theorem HostEffect.dst_eq {i : Instr} {s t : State} (h : HostEffect i s t) : t.dst = s.dst := by
  cases h with
  | store => simp [storeSrc_eq]
  | reply | nothing | registers | start => rfl

theorem HostEffect.src_eq_or_store {i : Instr} {s t : State} (h : HostEffect i s t) :
    t.src = s.src ∨ (∃ w, i = .wrSrcData w) ∧ s.busy = false := by
  cases h with
  | store w hb hi => exact .inr ⟨⟨w, hi⟩, hb⟩
  | reply | nothing | registers | start => exact .inl rfl

/-! ### Gating by `BUSY`, and who changes what -/

theorem exec_write_of_busy {i : Instr} {s : State} (hb : s.busy = true) (hi : i.isWrite = true) :
    exec i s = .next s := by
  cases i with
  | wrCtrl | wrCfg | wrBitsIn | wrBitsOut | wrBitsLimit | wrSrcLen | wrSrcIdx | wrSrcData | wrDstIdx =>
    simp only [exec_wrCtrl, exec_wrCfg, exec_wrBitsIn, exec_wrBitsOut, exec_wrBitsLimit, exec_wrSrcLen, exec_wrSrcIdx,
      exec_wrSrcData, exec_wrDstIdx, hostWrite_busy hb]
  | wrStatus | wrOutLen | wrDstData | wrCaps | wrRsvd => rfl
  | _ => simp [Instr.isWrite] at hi

theorem exec_rdSrcData_of_busy {s : State} (hb : s.busy = true) : exec .rdSrcData s = .next (s.reply 0) := if_pos hb

theorem exec_rdDstData_of_busy {s : State} (hb : s.busy = true) : exec .rdDstData s = .next (s.reply 0) := if_pos hb

theorem exec_read_of_busy {i : Instr} {s : State} (hb : s.busy = true) (hi : i.isWrite = false) :
    ∃ v, exec i s = .next (s.reply v) := by
  cases i with
  | rdSrcData => exact ⟨0, exec_rdSrcData_of_busy hb⟩
  | rdDstData => exact ⟨0, exec_rdDstData_of_busy hb⟩
  | rdCtrl | rdStatus | rdCfg | rdBitsIn | rdBitsOut | rdBitsLimit | rdSrcLen | rdOutLen | rdSrcIdx | rdDstIdx
  | rdCaps | rdRsvd => exact ⟨_, rfl⟩
  | _ => simp [Instr.isWrite] at hi

/-- Settles O19: a write is gated or has no effect at all, a read is gated or has no side effect. -/
theorem busyGatesEveryHostTransaction : Obligations.BusyGatesEveryHostTransaction := by
  unfold Obligations.BusyGatesEveryHostTransaction
  intro s hb
  exact ⟨fun _ => exec_write_of_busy hb, exec_rdSrcData_of_busy hb, exec_rdDstData_of_busy hb,
    fun _ => exec_read_of_busy hb⟩

/-- Settles O25: the effects that do not keep the status are the three the statement names. -/
theorem flagsChangeOnlyAtStartEndAndReset : Obligations.FlagsChangeOnlyAtStartEndAndReset := by
  unfold Obligations.FlagsChangeOnlyAtStartEndAndReset
  intro s t h hne
  have changed {p : List Turn} : ¬ StatusKept { s with port := p } t := fun ⟨hbusy, hdone, hecode, _⟩ => by
    simp [hbusy, hdone, hecode] at hne
  cases step_turn h with
  | host x rest hp hx =>
    obtain ⟨w, hi, hw, hb⟩ := (exec_effect hx).status_kept.resolve_left changed
    exact .inl ⟨x, rest, w, hp, hi, hw, hb⟩
  | engine hp he => exact .inr (.inl ⟨hp, (engineStep_effect he).status_kept.resolve_left changed⟩)
  | reset rest hp => exact .inr (.inr ⟨rest, hp⟩)

/-- Settles O26, from the effects of a host transaction and the frame of an engine step. -/
theorem buffersHaveOneWriterEach : Obligations.BuffersHaveOneWriterEach := by
  unfold Obligations.BuffersHaveOneWriterEach
  exact ⟨fun _ _ _ h => ⟨(exec_effect h).dst_eq, (exec_effect h).src_eq_or_store.resolve_left⟩,
    fun _ _ h => (engineStep_frame h).src⟩

/-- Settles O28, turn by turn; reset rebuilds the block from its own depths. -/
theorem depthsAreConstant : Obligations.DepthsAreConstant := by
  unfold Obligations.DepthsAreConstant
  intro s t h
  cases step_turn h with
  | host x rest _ hx => exact (exec_effect hx).config_eq
  | engine _ he => exact (engineStep_frame he).config
  | reset rest _ ht => subst ht; rfl

/-- Settles O33: while busy the host only receives data, and an engine step has its frame. -/
theorem parametersAreFrozenWhileBusy : Obligations.ParametersAreFrozenWhileBusy := by
  unfold Obligations.ParametersAreFrozenWhileBusy
  intro s t hb hnoReset h
  cases step_turn h with
  | host x rest _ hx =>
    obtain ⟨v, rfl⟩ := (exec_effect hx).reply_of_busy hb
    exact ⟨rfl, rfl, rfl, rfl, rfl, rfl, rfl, rfl, rfl, rfl⟩
  | engine _ he =>
    have f := engineStep_frame he
    exact ⟨f.srcWc, f.dstWc, f.bitsIn, f.bitsOut, f.bitsLimit, f.srcLen, f.src, f.srcIdx, f.dstIdx, f.config⟩
  | reset rest hp => exact absurd hp (hnoReset rest)

end Sys2Proof.Machine

/-! ### The copied positions, one position at a time -/

namespace Sys2Proof.Machine

@[simp] theorem orBelow_zero (f : Nat → Word) : orBelow 0 f = 0 := rfl

@[simp] theorem orBelow_succ (m : Nat) (f : Nat → Word) : orBelow (m + 1) f = orBelow m f ||| f m := by
  simp [orBelow, List.range_succ]

theorem orBelow_congr {m : Nat} {f g : Nat → Word} (h : ∀ j, j < m → f j = g j) : orBelow m f = orBelow m g := by
  induction m with
  | zero => rfl
  | succ m ih => rw [orBelow_succ, orBelow_succ, ih fun j hj => h j (by omega), h m (by omega)]

theorem orBelow_or (m : Nat) (f g : Nat → Word) : orBelow m (fun j => f j ||| g j) = orBelow m f ||| orBelow m g := by
  induction m with
  | zero => simp
  | succ m ih => simp only [orBelow_succ, ih]; ac_rfl

theorem orBelow_const_zero (m : Nat) : orBelow m (fun _ => 0) = 0 := by
  induction m with
  | zero => rfl
  | succ m ih => rw [orBelow_succ, ih, BitVec.or_self]

/-- One term that is not 0. -/
theorem orBelow_single {m a : Nat} (ha : a < m) (w : Word) : orBelow m (fun j => if j = a then w else 0) = w := by
  induction m with
  | zero => omega
  | succ m ih =>
    rw [orBelow_succ]
    rcases Nat.lt_succ_iff_lt_or_eq.1 ha with hlt | rfl
    · rw [ih hlt, if_neg (by omega)]; simp
    · rw [orBelow_congr (g := fun _ => 0) fun j hj => if_neg (by omega), orBelow_const_zero, if_pos rfl]; simp

/-- Bit `j` of output element `k` has the position `k * bo + j` (42_bit_copy_engine.md R111). -/
theorem position_eq_iff {bo k j p : Nat} (hj : j < bo) : k * bo + j = p ↔ k = p / bo ∧ j = p % bo := by
  have := Nat.div_mod_unique (a := p) (c := j) (d := k) (Nat.zero_lt_of_lt hj)
  rw [Nat.add_comm, Nat.mul_comm, eq_comm (a := k), eq_comm (a := j), this]
  exact (and_iff_left hj).symm

/-- Before the first position nothing has been copied. -/
theorem copiedBelow_zero (s : State) (k : Nat) : copiedBelow s 0 k = 0 :=
  (orBelow_congr fun _ _ => if_neg (Nat.not_lt_zero _)).trans (orBelow_const_zero _)

/-- An element all of whose positions have been copied holds its closed form. -/
theorem copiedBelow_eq_closedForm {s : State} {p k : Nat} (h : (k + 1) * s.bitsOut.toNat ≤ p) :
    copiedBelow s p k = closedForm s k :=
  orBelow_congr fun j hj => if_pos (by rw [Nat.add_one_mul] at h; omega)

theorem copiedBelow_succ_other {s : State} {p k : Nat} (hk : k ≠ dstElement s.bitsOut.toNat p) :
    copiedBelow s (p + 1) k = copiedBelow s p k := by
  refine orBelow_congr fun j hj => ?_
  have : k * s.bitsOut.toNat + j ≠ p := fun e => hk ((position_eq_iff hj).1 e).1
  exact if_congr (by omega) rfl rfl

/-- Copying position `p` ORs its bit into its element, at the place R111 gives it. -/
theorem copiedBelow_succ_same {s : State} {p : Nat} (hbo : 1 ≤ s.bitsOut.toNat) :
    copiedBelow s (p + 1) (dstElement s.bitsOut.toNat p) =
      accumulate (copiedBelow s p (dstElement s.bitsOut.toNat p)) (streamBit s p) (dstShift s.bitsOut.toNat p) := by
  have hmod : p % s.bitsOut.toNat < s.bitsOut.toNat := Nat.mod_lt _ hbo
  unfold accumulate copiedBelow
  rw [← orBelow_single hmod (streamBit s p <<< dstShift s.bitsOut.toNat p), ← orBelow_or]
  refine orBelow_congr fun j hj => ?_
  have hpos := position_eq_iff (k := dstElement s.bitsOut.toNat p) (p := p) hj
  by_cases hjp : j = p % s.bitsOut.toNat
  · have hp : dstElement s.bitsOut.toNat p * s.bitsOut.toNat + j = p := hpos.2 ⟨rfl, hjp⟩
    have hshift : s.bitsOut.toNat - 1 - j = dstShift s.bitsOut.toNat p := hjp ▸ Nat.sub_right_comm _ _ _
    simp [hp, hshift, ← hjp]
  · have hne : dstElement s.bitsOut.toNat p * s.bitsOut.toNat + j ≠ p := fun e => hjp (hpos.1 e).2
    have hlt : dstElement s.bitsOut.toNat p * s.bitsOut.toNat + j < p + 1 ↔
        dstElement s.bitsOut.toNat p * s.bitsOut.toNat + j < p := by omega
    simp [hlt, hjp]

/-- `bit(i)` is what the mapper takes from the source value (42_bit_copy_engine.md R112, R113). -/
theorem streamBit_eq_extractBit {s : State} {i : Nat} {v : Word}
    (hv : sourceValue s (srcElement s.bitsIn.toNat i) = some v) :
    streamBit s i = extractBit v (srcShift s.bitsIn.toNat i) := by
  have hshift : s.bitsIn.toNat - 1 - i % s.bitsIn.toNat = srcShift s.bitsIn.toNat i := Nat.sub_right_comm _ _ _
  unfold streamBit
  rw [hshift]
  rcases Nat.lt_or_ge (srcElement s.bitsIn.toNat i) s.srcLen.toNat with hlt | hge
  · rw [sourceValue_inside hlt] at hv
    simp only [srcElement] at hlt hv
    simp [hlt, hv, extractBit]
  · rw [sourceValue_beyond hge, Option.some.injEq] at hv
    simp only [srcElement] at hge
    simp [Nat.not_lt.2 hge, ← hv, extractBit]

/-- A COPY step turns the positions copied so far into those and the next, in whatever element this is looked at. -/
theorem copiedDst_read {s : State} {v old : Word} (hbo : 1 ≤ s.bitsOut.toNat) (h : CopyReads s v old) {k : Nat}
    (hk : s.dst.read k = some (copiedBelow s s.pos.toNat k)) :
    (copiedDst s v old).read k = some (copiedBelow s (s.pos.toNat + 1) k) := by
  unfold copiedDst
  by_cases hkd : k = dstElement s.bitsOut.toNat s.pos.toNat
  · have hold : old = copiedBelow s s.pos.toNat k := by rw [← Option.some.injEq, ← h.entry, ← hkd, hk]
    subst hkd
    rw [Memory.read_write_same, copiedBelow_succ_same hbo, streamBit_eq_extractBit h.source, hold]
  · rw [Memory.read_write_other hkd, copiedBelow_succ_other hkd, hk]

theorem copiedDst_read_other (s : State) (v old : Word) {k : Nat} (hk : k ≠ dstElement s.bitsOut.toNat s.pos.toNat) :
    (copiedDst s v old).read k = s.dst.read k := Memory.read_write_other hk _ _

/-! ### The invariant, effect by effect -/

/-- What the last read returned and the turns to come are the outside world's: no clause speaks of them. -/
theorem Inv.outside {s : State} (h : Inv s) (rdata : Word) (port : List Turn) : Inv { s with rdata, port } :=
  ⟨h.config_legal, h.busy_iff, h.not_busy_and_done, h.ecode_zero_unless_done, h.ecode_produced,
    h.no_output_unless_success, h.output_fits, h.output_written, h.src_wf, h.src_within, h.dst_wf, h.dst_within,
    h.running_ready, h.clear_progress, h.copy_progress, h.complete_progress⟩

theorem Inv.phase_idle {s : State} (h : Inv s) (hb : s.busy = false) : s.phase = .idle := by
  by_contra hne
  simp [h.busy_iff.2 hne] at hb

/-- While idle no clause speaks of the parameters or the window indices, and of the source only its form. -/
theorem Inv.of_idle {s : State} (h : Inv s) (hb : s.busy = false) {src : Memory} (hwf : src.wf = true)
    (hin : src.within s.config.srcDepth.toNat = true) (srcWc dstWc : BitVec 2)
    (bitsIn bitsOut bitsLimit srcLen srcIdx dstIdx rdata : Word) :
    Inv { s with src, srcWc, dstWc, bitsIn, bitsOut, bitsLimit, srcLen, srcIdx, dstIdx, rdata } := by
  have hidle := h.phase_idle hb
  exact ⟨h.config_legal, h.busy_iff, h.not_busy_and_done, h.ecode_zero_unless_done, h.ecode_produced,
    h.no_output_unless_success, h.output_fits, h.output_written, hwf, hin, h.dst_wf, h.dst_within,
    by simp [hidle], by simp [hidle], by simp [hidle], by simp [hidle]⟩

/-- An accepted `START` clears the flags and the output length; VALIDATE has no progress to speak of. -/
theorem Inv.acceptStart {s : State} (h : Inv s) : Inv s.acceptStart where
  config_legal := h.config_legal
  busy_iff := by simp
  not_busy_and_done := by simp
  ecode_zero_unless_done _ := acceptStart_ecode s
  ecode_produced := .inl (acceptStart_ecode s)
  no_output_unless_success _ := acceptStart_outLen s
  output_fits := by simp
  output_written := by simp
  src_wf := h.src_wf
  src_within := h.src_within
  dst_wf := h.dst_wf
  dst_within := h.dst_within
  running_ready := by simp
  clear_progress := by simp
  copy_progress := by simp
  complete_progress := by simp

theorem HostEffect.keeps_inv {i : Instr} {s t : State} (h : HostEffect i s t) (hs : Inv s) : Inv t := by
  cases h with
  | reply v => exact hs.outside v s.port
  | nothing => exact hs
  | registers _ _ _ _ _ _ _ _ _ hb => exact hs.of_idle hb hs.src_wf hs.src_within _ _ _ _ _ _ _ _ _
  | store w hb =>
    rw [storeSrc_eq]
    split
    next hlt =>
      exact hs.of_idle hb (Memory.wf_write _ w hs.src_wf) (Memory.within_write w hlt hs.src_within) _ _ _ _ _ _ _ _ _
    next => exact hs.of_idle hb hs.src_wf hs.src_within _ _ _ _ _ _ _ _ _
  | start => exact hs.acceptStart

theorem Inv.not_done_of_busy {s : State} (h : Inv s) (hb : s.busy = true) : s.done = false := by
  by_contra hd
  exact h.not_busy_and_done ⟨hb, by simpa using hd⟩

theorem Inv.outLen_of_busy {s : State} (h : Inv s) (hb : s.busy = true) : s.outLen = 0 :=
  h.no_output_unless_success (.inl (h.not_done_of_busy hb))

/-- The codes that a failing check can raise (60_exceptions.md R122): never 5, 6 or 7. -/
theorem failedCheck_code {s : State} {e : ErrorCode} (h : failedCheck s = some e) :
    e.code = 1 ∨ e.code = 2 ∨ e.code = 3 ∨ e.code = 4 ∨ e.code = 8 ∨ e.code = 9 := by
  unfold failedCheck at h
  split_ifs at h <;> cases h <;> decide

/-- The end of a command leaves the form of the buffers and the depths; its flags, and the output the flags admit, are
all there is to check. -/
theorem Inv.ended {s : State} (h : Inv s) {ecode : BitVec 4} {outLen : Word}
    (hcode : ecode = 0 ∨ ecode = 1 ∨ ecode = 2 ∨ ecode = 3 ∨ ecode = 4 ∨ ecode = 8 ∨ ecode = 9)
    (hnone : ecode ≠ 0 → outLen = 0) (hfits : outLen.toNat ≤ s.config.dstDepth.toNat)
    (hwritten : ∀ k, k < outLen.toNat → (s.dst.read k).isSome = true) :
    Inv { s with busy := false, done := true, ecode, outLen, phase := .idle } where
  config_legal := h.config_legal
  busy_iff := by simp
  not_busy_and_done := by simp
  ecode_zero_unless_done := by simp
  ecode_produced := hcode
  no_output_unless_success := by simpa using hnone
  output_fits := hfits
  output_written := hwritten
  src_wf := h.src_wf
  src_within := h.src_within
  dst_wf := h.dst_wf
  dst_within := h.dst_within
  running_ready := by simp
  clear_progress := by simp
  copy_progress := by simp
  complete_progress := by simp

theorem Inv.raiseError {s : State} (h : Inv s) (hb : s.busy = true) {e : ErrorCode} (he : failedCheck s = some e) :
    Inv (s.raiseError e) := by
  have hout := h.outLen_of_busy hb
  exact h.ended (.inr (failedCheck_code he)) (fun _ => hout) (by simp [hout]) (by simp [hout])

theorem engineReady_length_le {s : State} (h : engineReady s = true) : s.n.toNat ≤ s.config.dstDepth.toNat := by
  obtain ⟨hc, hn⟩ := (engineReady_iff s).1 h
  exact hn ▸ hc.output_fits

theorem Inv.completed {s : State} (h : Inv s) (hph : s.phase = .complete) :
    Inv { s.flagsEnded 0 with outLen := s.n, phase := .idle } := by
  have hr := h.running_ready (.inr (.inr hph))
  exact h.ended (.inl rfl) (fun hne => absurd rfl hne) (engineReady_length_le hr)
    fun k hk => by simp [h.complete_progress hph k hk]

/-- What a command's engine owes the invariant between VALIDATE and COMPLETE: the output's form and its progress. -/
structure Progress (s : State) : Prop where
  ready : engineReady s = true
  dst_wf : s.dst.wf = true
  dst_within : s.dst.within s.config.dstDepth.toNat = true
  cleared : s.phase = .clear → s.clr.toNat < s.n.toNat ∧ ∀ k, k < s.clr.toNat → s.dst.read k = some 0
  copied : s.phase = .copy →
    s.pos.toNat < s.bitsLimit.toNat ∧ ∀ k, k < s.n.toNat → s.dst.read k = some (copiedBelow s s.pos.toNat k)
  completed : s.phase = .complete → ∀ k, k < s.n.toNat → s.dst.read k = some (closedForm s k)

theorem Inv.progress {s : State} (h : Inv s) (hph : s.phase = .clear ∨ s.phase = .copy ∨ s.phase = .complete) :
    Progress s :=
  ⟨h.running_ready hph, h.dst_wf, h.dst_within, h.clear_progress, h.copy_progress, h.complete_progress⟩

/-- A step inside a command has only its progress to show: the rest of the invariant is in its frame. -/
theorem Inv.of_progress {s t : State} (h : Inv s) (hb : s.busy = true) (hf : EngineFrame s t) (hk : StatusKept s t)
    (hph : t.phase ≠ .idle) (hp : Progress t) : Inv t := by
  have hdone : t.done = false := hk.done.trans (h.not_done_of_busy hb)
  have hout : t.outLen = 0 := hk.outLen.trans (h.outLen_of_busy hb)
  exact {
    config_legal := hf.config ▸ h.config_legal
    busy_iff := iff_of_true (hk.busy.trans hb) hph
    not_busy_and_done := by simp [hdone]
    ecode_zero_unless_done := fun _ => hk.ecode.trans (h.ecode_zero_unless_done (h.not_done_of_busy hb))
    ecode_produced := hk.ecode ▸ h.ecode_produced
    no_output_unless_success := fun _ => hout
    output_fits := by simp [hout]
    output_written := by simp [hout]
    src_wf := hf.src ▸ h.src_wf
    src_within := by rw [hf.src, hf.config]; exact h.src_within
    dst_wf := hp.dst_wf
    dst_within := hp.dst_within
    running_ready := fun _ => hp.ready
    clear_progress := hp.cleared
    copy_progress := hp.copied
    complete_progress := hp.completed }

/-- VALIDATE has found the premises of 42_bit_copy_engine.md; no entry is cleared yet. -/
theorem Inv.progress_pass {s : State} (h : Inv s) (hc : failedCheck s = none) :
    Progress { s with n := outputLength s, clr := 0, phase := .clear } where
  ready := (engineReady_iff _).2 ⟨(failedCheck_none_iff _).1 hc, rfl⟩
  dst_wf := h.dst_wf
  dst_within := h.dst_within
  cleared _ := ⟨((failedCheck_none_iff s).1 hc).length_pos, by simp⟩
  copied := by simp
  completed := by simp

/-- Clearing entry `c` after those below it leaves every entry up to `c` at 0. -/
theorem read_write_zero_of_le {m : Memory} {c k : Nat} (h : ∀ k, k < c → m.read k = some 0) (hk : k ≤ c) :
    (m.write c 0).read k = some 0 := by
  rcases Nat.lt_or_eq_of_le hk with hlt | rfl
  · rw [Memory.read_write_other hlt.ne, h k hlt]
  · exact Memory.read_write_same _ _ _

theorem Progress.clearMore {s : State} (h : Progress s) (hph : s.phase = .clear) (hlt : s.clr.toNat + 1 < s.n.toNat) :
    Progress { s with dst := s.dst.write s.clr.toNat 0, clr := s.clr + 1 } where
  ready := h.ready
  dst_wf := Memory.wf_write _ _ h.dst_wf
  dst_within := Memory.within_write _ ((Nat.lt_of_succ_lt hlt).trans_le (engineReady_length_le h.ready)) h.dst_within
  cleared _ := by
    rw [toNat_succ_of_lt (Nat.lt_of_succ_lt hlt)]
    exact ⟨hlt, fun k hk => read_write_zero_of_le (h.cleared hph).2 (Nat.le_of_lt_succ hk)⟩
  copied := by simp [hph]
  completed := by simp [hph]

theorem Progress.clearLast {s : State} (h : Progress s) (hph : s.phase = .clear) (hlast : s.clr.toNat + 1 = s.n.toNat) :
    Progress { s with dst := s.dst.write s.clr.toNat 0, clr := s.clr + 1, pos := 0, phase := .copy } where
  ready := h.ready
  dst_wf := Memory.wf_write _ _ h.dst_wf
  dst_within := Memory.within_write _ ((Nat.lt_of_succ_le hlast.le).trans_le (engineReady_length_le h.ready)) h.dst_within
  cleared := by simp
  copied _ := by
    refine ⟨((engineReady_iff s).1 h.ready).1.bitsLimit_pos, fun k hk => ?_⟩
    have hle : k ≤ s.clr.toNat := Nat.le_of_lt_succ (hk.trans_eq hlast.symm)
    exact (read_write_zero_of_le (h.cleared hph).2 hle).trans (congrArg some (copiedBelow_zero s k).symm)
  completed := by simp

theorem dstElement_lt_depth {s : State} {v old : Word} (h : CopyReads s v old) :
    dstElement s.bitsOut.toNat s.pos.toNat < s.config.dstDepth.toNat :=
  have hc := ((engineReady_iff s).1 h.ready).1
  (hc.dstElement_lt h.inside).trans_le hc.output_fits

theorem Progress.copyMore {s : State} {v old : Word} (h : Progress s) (hph : s.phase = .copy) (hr : CopyReads s v old)
    (hlt : s.pos.toNat + 1 < s.bitsLimit.toNat) :
    Progress { s with dst := copiedDst s v old, pos := s.pos + 1 } where
  ready := h.ready
  dst_wf := Memory.wf_write _ _ h.dst_wf
  dst_within := Memory.within_write _ (dstElement_lt_depth hr) h.dst_within
  cleared := by simp [hph]
  copied _ := by
    have hbo := ((engineReady_iff s).1 h.ready).1.bitsOut_pos
    rw [toNat_succ_of_lt hr.inside]
    exact ⟨hlt, fun k hk => copiedDst_read hbo hr ((h.copied hph).2 k hk)⟩
  completed := by simp [hph]

/-- After the last position every element's positions, which end at `n * bo = bl`, have been copied. -/
theorem ChecksPass.copied_all {s : State} (h : ChecksPass s) {k : Nat} (hk : k < (outputLength s).toNat) :
    copiedBelow s s.bitsLimit.toNat k = closedForm s k :=
  copiedBelow_eq_closedForm (h.length_mul ▸ Nat.mul_le_mul_right _ hk)

theorem Progress.copyLast {s : State} {v old : Word} (h : Progress s) (hph : s.phase = .copy) (hr : CopyReads s v old)
    (hlast : s.pos.toNat + 1 = s.bitsLimit.toNat) :
    Progress { s with dst := copiedDst s v old, pos := s.pos + 1, phase := .complete } where
  ready := h.ready
  dst_wf := Memory.wf_write _ _ h.dst_wf
  dst_within := Memory.within_write _ (dstElement_lt_depth hr) h.dst_within
  cleared := by simp
  copied := by simp
  completed _ k hk := by
    obtain ⟨hc, hn⟩ := (engineReady_iff s).1 h.ready
    have hread := copiedDst_read hc.bitsOut_pos hr ((h.copied hph).2 k hk)
    rw [hlast, hc.copied_all (hn ▸ hk)] at hread
    exact hread

theorem engineStep_keeps_inv {s t : State} (h : engineStep s = .next t) (hs : Inv s) : Inv t := by
  have hf := engineStep_frame h
  have running (hph : s.phase ≠ .idle) : s.busy = true := hs.busy_iff.2 hph
  have kept : StatusKept s t → s.phase ≠ .idle → t.phase ≠ .idle → Progress t → Inv t := fun hk hph =>
    hs.of_progress (running hph) hf hk
  cases engineStep_effect h with
  | rest => exact hs
  | error e hph he => exact hs.raiseError (running (by simp [hph])) he
  | complete hph => exact hs.completed hph
  | pass hph hc => exact kept ⟨rfl, rfl, rfl, rfl⟩ (by simp [hph]) (by simp) (hs.progress_pass hc)
  | clearMore hph _ hlt =>
    exact kept ⟨rfl, rfl, rfl, rfl⟩ (by simp [hph]) (by simp [hph]) ((hs.progress (.inl hph)).clearMore hph hlt)
  | clearLast hph _ hlast =>
    exact kept ⟨rfl, rfl, rfl, rfl⟩ (by simp [hph]) (by simp) ((hs.progress (.inl hph)).clearLast hph hlast)
  | copyMore v old hph hr hlt =>
    exact kept ⟨rfl, rfl, rfl, rfl⟩ (by simp [hph]) (by simp [hph])
      ((hs.progress (.inr (.inl hph))).copyMore hph hr hlt)
  | copyLast v old hph hr hlast =>
    exact kept ⟨rfl, rfl, rfl, rfl⟩ (by simp [hph]) (by simp) ((hs.progress (.inr (.inl hph))).copyLast hph hr hlast)

/-- Settles O40, turn by turn: the turn is used up first, which no clause sees. -/
theorem everyStepKeepsTheInvariant : Obligations.EveryStepKeepsTheInvariant := by
  unfold Obligations.EveryStepKeepsTheInvariant
  intro s t hs h
  cases step_turn h with
  | host x rest _ hx => exact (exec_effect hx).keeps_inv (hs.outside s.rdata rest)
  | engine _ he => exact engineStep_keeps_inv he (hs.outside s.rdata s.port.tail)
  | reset rest _ ht => exact ht ▸ resetOf_inv hs.config_legal s.rdata rest

/-- Settles O42, by induction on the run: reset meets the invariant and every step keeps it. -/
theorem reachableStatesMeetTheInvariant : Obligations.ReachableStatesMeetTheInvariant := by
  unfold Obligations.ReachableStatesMeetTheInvariant
  intro s h
  induction h with
  | start config port hc => exact resetMeetsTheInvariant config port hc
  | step s t _ hstep ih => exact everyStepKeepsTheInvariant s t ih hstep

end Sys2Proof.Machine

/-! ### The run of a command that passes validation -/

namespace Sys2Proof.Machine

/-- A run in two parts: the second part from where the first ends. -/
theorem engineRun_add {j : Nat} {s u : State} (h : engineRun j s = .next u) (k : Nat) :
    engineRun (j + k) s = engineRun k u := by
  induction j generalizing s with
  | zero => cases h; rw [Nat.zero_add]
  | succ j ih =>
    rw [Nat.succ_add]
    simp only [engineRun] at h ⊢
    cases hs : engineStep s with
    | next t => rw [hs] at h; exact ih h
    | fault => rw [hs] at h; cases h
    | refused => rw [hs] at h; cases h

/-- One step more. -/
theorem engineRun_succ_of_step {j : Nat} {s u t : State} (h : engineRun j s = .next u) (hstep : engineStep u = .next t) :
    engineRun (j + 1) s = .next t := by
  rw [engineRun_add h]
  simp only [engineRun, hstep]

/-! #### The states of the run -/

/-- The command `s` in CLEAR: `c` entries have been cleared. -/
def clearingAt (s : State) (c : Word) (dst : Memory) : State :=
  { s with n := outputLength s, clr := c, phase := .clear, dst }

/-- The command `s` in COPY: the positions below `p` have been copied. -/
def copyingAt (s : State) (p : Word) (dst : Memory) : State :=
  { s with n := outputLength s, clr := outputLength s, pos := p, phase := .copy, dst }

/-- The command `s` in COMPLETE: every position has been copied. -/
def completingAt (s : State) (dst : Memory) : State := { copyingAt s s.bitsLimit dst with phase := .complete }

/-- The command `s` after its success (42_bit_copy_engine.md R116). -/
def succeeded (s : State) (dst : Memory) : State :=
  { completingAt s dst with busy := false, done := true, ecode := 0, outLen := outputLength s, phase := .idle }

/-- `DST` once the command's entries below `m` hold `value`; every other entry is as it was. -/
def Filled (s : State) (m : Nat) (value : Nat → Word) (dst : Memory) : Prop :=
  ∀ k, dst.read k = if k < m then some (value k) else s.dst.read k

theorem Filled.read_below {s : State} {m k : Nat} {value : Nat → Word} {dst : Memory} (h : Filled s m value dst)
    (hk : k < m) : dst.read k = some (value k) := (h k).trans (if_pos hk)

theorem Filled.congr {s : State} {m : Nat} {value value' : Nat → Word} {dst : Memory} (h : Filled s m value dst)
    (hv : ∀ k, k < m → value k = value' k) : Filled s m value' dst := by
  intro k
  by_cases hk : k < m
  · rw [h.read_below hk, if_pos hk, hv k hk]
  · rw [h k, if_neg hk, if_neg hk]

theorem Filled.write_zero {s : State} {c : Nat} {dst : Memory} (h : Filled s c (fun _ => 0) dst) :
    Filled s (c + 1) (fun _ => 0) (dst.write c 0) := by
  intro k
  rcases eq_or_ne k c with rfl | hne
  · rw [Memory.read_write_same, if_pos (Nat.lt_succ_self k)]
  · rw [Memory.read_write_other hne, h k]
    exact if_congr (by omega) rfl rfl

/-! #### CLEAR -/

theorem CommandReady.checks {s : State} (h : CommandReady s) : ChecksPass s := (failedCheck_none_iff s).1 h.checks_pass

theorem CommandReady.clearing_ready {s : State} (h : CommandReady s) (c : Word) (dst : Memory) :
    engineReady (clearingAt s c dst) = true :=
  (engineReady_iff _).2 ⟨(failedCheck_none_iff _).1 h.checks_pass, rfl⟩

theorem CommandReady.copying_ready {s : State} (h : CommandReady s) (p : Word) (dst : Memory) :
    engineReady (copyingAt s p dst) = true :=
  (engineReady_iff _).2 ⟨(failedCheck_none_iff _).1 h.checks_pass, rfl⟩

theorem CommandReady.validate {s : State} (h : CommandReady s) : engineStep s = .next (clearingAt s 0 s.dst) := by
  unfold engineStep
  rw [h.accepted]
  exact validateStep_passes h.checks_pass

theorem CommandReady.clear {s : State} (h : CommandReady s) {c : Word} {dst : Memory}
    (hc : c.toNat < (outputLength s).toNat) :
    engineStep (clearingAt s c dst) = .next
      (if c.toNat + 1 = (outputLength s).toNat then copyingAt s 0 (dst.write c.toNat 0)
        else clearingAt s (c + 1) (dst.write c.toNat 0)) := by
  have hstep := clearStep_eq (h.clearing_ready c dst) hc
  by_cases hlast : c.toNat + 1 = (outputLength s).toNat
  · have hn : c + 1 = outputLength s := (succ_eq_iff hc).2 hlast
    rw [if_pos hlast]
    refine (hstep.trans (congrArg Host.Outcome.next (if_pos hn))).trans ?_
    simp only [clearingAt, copyingAt, hn]
  · have hn : c + 1 ≠ outputLength s := mt (succ_eq_iff hc).1 hlast
    rw [if_neg hlast]
    exact hstep.trans (congrArg Host.Outcome.next (if_neg hn))

/-- Before the last CLEAR step. -/
theorem CommandReady.run_clearing {s : State} (h : CommandReady s) {j : Nat} (hj : j < (outputLength s).toNat) :
    ∃ c dst, c.toNat = j ∧ engineRun (1 + j) s = .next (clearingAt s c dst) ∧ Filled s j (fun _ => 0) dst := by
  induction j with
  | zero =>
    exact ⟨0, s.dst, rfl, engineRun_succ_of_step rfl h.validate, fun _ => rfl⟩
  | succ j ih =>
    obtain ⟨c, dst, hc, hrun, hfill⟩ := ih (Nat.lt_of_succ_lt hj)
    subst hc
    have hlt : c.toNat < (outputLength s).toNat := Nat.lt_of_succ_lt hj
    have hstep := h.clear (dst := dst) hlt
    rw [if_neg hj.ne] at hstep
    exact ⟨c + 1, _, toNat_succ_of_lt hlt, engineRun_succ_of_step hrun hstep, hfill.write_zero⟩

/-! #### COPY -/

/-- A source entry that a position below the limit lies in is written (70_reset_and_hazards.md R142). -/
theorem CommandReady.source_read {s : State} (h : CommandReady s) {i : Nat} (hi : i < s.bitsLimit.toNat) :
    ∃ v, sourceValue s (srcElement s.bitsIn.toNat i) = some v := by
  rcases Nat.lt_or_ge (srcElement s.bitsIn.toNat i) s.srcLen.toNat with hlt | hge
  · rw [sourceValue_inside hlt]
    exact Option.isSome_iff_exists.1 (h.source_written _ hlt ((Nat.div_mul_le_self _ _).trans_lt hi))
  · exact ⟨0, sourceValue_beyond hge⟩

/-- What a COPY step of the run reads, and how it fills `DST`. -/
theorem CommandReady.copy_reads {s : State} (h : CommandReady s) {p : Word} {dst : Memory}
    (hp : p.toNat < s.bitsLimit.toNat) (hfill : Filled s (outputLength s).toNat (copiedBelow s p.toNat) dst) :
    ∃ v old, CopyReads (copyingAt s p dst) v old ∧
      Filled s (outputLength s).toNat (copiedBelow s (p.toNat + 1)) (copiedDst (copyingAt s p dst) v old) := by
  obtain ⟨v, hv⟩ := h.source_read hp
  have hd := h.checks.dstElement_lt hp
  have hreads : CopyReads (copyingAt s p dst) v _ := ⟨h.copying_ready p dst, hp, hv, hfill.read_below hd⟩
  refine ⟨v, _, hreads, fun k => ?_⟩
  by_cases hk : k < (outputLength s).toNat
  · rw [if_pos hk]
    exact copiedDst_read (s := copyingAt s p dst) h.checks.bitsOut_pos hreads (hfill.read_below hk)
  · have hne : k ≠ dstElement s.bitsOut.toNat p.toNat := fun e => hk (e ▸ hd)
    rw [copiedDst_read_other _ v _ hne]
    exact (hfill k).trans (by rw [if_neg hk, if_neg hk])

theorem CopyReads.step {s : State} {p : Word} {dst : Memory} {v old : Word} (h : CopyReads (copyingAt s p dst) v old) :
    engineStep (copyingAt s p dst) = .next
      (if p.toNat + 1 = s.bitsLimit.toNat then completingAt s (copiedDst (copyingAt s p dst) v old)
        else copyingAt s (p + 1) (copiedDst (copyingAt s p dst) v old)) := by
  have hinside : p.toNat < s.bitsLimit.toNat := h.inside
  refine (copyStep_eq h.ready h.inside h.source h.entry).trans ?_
  by_cases hlast : p.toNat + 1 = s.bitsLimit.toNat
  · have hbl : p + 1 = s.bitsLimit := (succ_eq_iff hinside).2 hlast
    rw [if_pos hlast, copied_last v old hbl]
    simp only [completingAt, copyingAt, hbl]
  · rw [if_neg hlast, copied_more v old (mt (succ_eq_iff hinside).1 hlast)]
    rfl

/-- Before the last COPY step. -/
theorem CommandReady.run_copying {s : State} (h : CommandReady s) {j : Nat} (hj : j < s.bitsLimit.toNat) :
    ∃ p dst, p.toNat = j ∧ engineRun (1 + (outputLength s).toNat + j) s = .next (copyingAt s p dst) ∧
      Filled s (outputLength s).toNat (copiedBelow s j) dst := by
  induction j with
  | zero =>
    have hpos := h.checks.length_pos
    obtain ⟨c, dst, hc, hrun, hfill⟩ := h.run_clearing (Nat.sub_one_lt_of_le hpos le_rfl)
    have hlast : c.toNat + 1 = (outputLength s).toNat := by omega
    have hstep := h.clear (c := c) (dst := dst) (by omega)
    rw [if_pos hlast] at hstep
    refine ⟨0, dst.write c.toNat 0, rfl, ?_, ?_⟩
    · have := engineRun_succ_of_step hrun hstep
      rwa [← hc, Nat.add_assoc, hlast] at this
    · rw [← hc] at hfill
      rw [← hlast]
      exact hfill.write_zero.congr fun k _ => (copiedBelow_zero s k).symm
  | succ j ih =>
    obtain ⟨p, dst, hp, hrun, hfill⟩ := ih (Nat.lt_of_succ_lt hj)
    subst hp
    have hlt : p.toNat < s.bitsLimit.toNat := Nat.lt_of_succ_lt hj
    obtain ⟨v, old, hreads, hnext⟩ := h.copy_reads hlt hfill
    have hstep := hreads.step
    rw [if_neg hj.ne] at hstep
    exact ⟨p + 1, _, toNat_succ_of_lt hlt, engineRun_succ_of_step hrun hstep, hnext⟩

/-! #### COMPLETE -/

/-- After the last COPY step `DST` holds the closed form (42_bit_copy_engine.md R117). -/
theorem CommandReady.run_completing {s : State} (h : CommandReady s) :
    ∃ dst, engineRun (1 + (outputLength s).toNat + s.bitsLimit.toNat) s = .next (completingAt s dst) ∧
      Filled s (outputLength s).toNat (closedForm s) dst := by
  have hpos := h.checks.bitsLimit_pos
  obtain ⟨p, dst, hp, hrun, hfill⟩ := h.run_copying (Nat.sub_one_lt_of_le hpos le_rfl)
  rw [← hp] at hrun hfill
  have hlast : p.toNat + 1 = s.bitsLimit.toNat := by omega
  obtain ⟨v, old, hreads, hnext⟩ := h.copy_reads (by omega) hfill
  have hstep := hreads.step
  rw [if_pos hlast] at hstep
  refine ⟨_, hlast ▸ engineRun_succ_of_step hrun hstep, hnext.congr fun k hk => ?_⟩
  rw [hlast, h.checks.copied_all hk]

/-- The whole command. -/
theorem CommandReady.run_succeeded {s : State} (h : CommandReady s) :
    ∃ dst, engineRun (commandSteps s) s = .next (succeeded s dst) ∧
      Filled s (outputLength s).toNat (closedForm s) dst := by
  obtain ⟨dst, hrun, hfill⟩ := h.run_completing
  exact ⟨dst, engineRun_succ_of_step hrun rfl, hfill⟩

/-! ### Only the logical stream matters -/

theorem extractBit_congr {v v' : Word} {rs : Nat} (h : v'.getLsbD rs = v.getLsbD rs) :
    extractBit v' rs = extractBit v rs := by
  have bit (w : Word) : extractBit w rs = (BitVec.ofBool (w.getLsbD rs)).setWidth 64 := by
    simp [extractBit, BitVec.and_one_eq_setWidth_ofBool_getLsbD]
  rw [bit, bit, h]

/-- The closed form looks at the positions of its element only, all below the limit. -/
theorem ChecksPass.closedForm_congr {s s' : State} (h : ChecksPass s) (hbo : s'.bitsOut = s.bitsOut)
    (hbits : ∀ i, i < s.bitsLimit.toNat → streamBit s' i = streamBit s i) {k : Nat}
    (hk : k < (outputLength s).toNat) : closedForm s' k = closedForm s k := by
  have hend : (k + 1) * s.bitsOut.toNat ≤ s.bitsLimit.toNat := h.length_mul ▸ Nat.mul_le_mul_right _ hk
  unfold closedForm
  rw [hbo]
  refine orBelow_congr fun j hj => ?_
  rw [hbits _ (by rw [Nat.add_one_mul] at hend; omega)]

/-- Two sources have the same stream below the limit if they agree on its significant bits
(42_bit_copy_engine.md R113, R119). -/
theorem streamBit_congr {s s' : State} (h : CommandReady s) (h' : CommandReady s') (hbi : s'.bitsIn = s.bitsIn)
    (hbl : s'.bitsLimit = s.bitsLimit) (hlen : s'.srcLen = s.srcLen)
    (hsrc : ∀ k x x' b, k < s.srcLen.toNat → s.src.read k = some x → s'.src.read k = some x' → b < s.bitsIn.toNat →
      k * s.bitsIn.toNat + (s.bitsIn.toNat - 1 - b) < s.bitsLimit.toNat → x'.getLsbD b = x.getLsbD b)
    {i : Nat} (hi : i < s.bitsLimit.toNat) : streamBit s' i = streamBit s i := by
  obtain ⟨x, hx⟩ := h.source_read hi
  obtain ⟨x', hx'⟩ := h'.source_read (hbl ▸ hi)
  rw [streamBit_eq_extractBit hx, streamBit_eq_extractBit hx']
  rw [hbi] at hx' ⊢
  rcases Nat.lt_or_ge (srcElement s.bitsIn.toNat i) s.srcLen.toNat with hlt | hge
  · rw [sourceValue_inside hlt] at hx
    rw [sourceValue_inside (hlen ▸ hlt)] at hx'
    have hmod : i % s.bitsIn.toNat < s.bitsIn.toNat := Nat.mod_lt _ h.checks.bitsIn_pos
    have hpos : srcElement s.bitsIn.toNat i * s.bitsIn.toNat + i % s.bitsIn.toNat = i := Nat.div_add_mod' _ _
    refine extractBit_congr (hsrc _ x x' _ hlt hx hx' ?_ ?_) <;> unfold srcShift <;> omega
  · rw [sourceValue_beyond hge] at hx
    rw [sourceValue_beyond (hlen ▸ hge)] at hx'
    rw [← Option.some.inj (hx.symm.trans hx')]

/-- Settles O46: both runs end with the closed form, which is made of the stream below `BITS_LIMIT`. -/
theorem ignoredSourceBitsCannotMatter : Obligations.IgnoredSourceBitsCannotMatter := by
  unfold Obligations.IgnoredSourceBitsCannotMatter
  intro s s' t t' h h' hbi hbo hbl hlen hsrc ht ht'
  obtain ⟨dst, hrun, hfill⟩ := h.run_succeeded
  obtain ⟨dst', hrun', hfill'⟩ := h'.run_succeeded
  obtain rfl : succeeded s dst = t := Host.Outcome.next.inj (hrun.symm.trans ht)
  obtain rfl : succeeded s' dst' = t' := Host.Outcome.next.inj (hrun'.symm.trans ht')
  have hn : outputLength s' = outputLength s := by rw [outputLength, outputLength, hbl, hbo]
  refine ⟨hn, fun k (hk : k < (outputLength s).toNat) => ?_⟩
  calc dst'.read k = some (closedForm s' k) := hfill'.read_below (hn ▸ hk)
    _ = some (closedForm s k) :=
      congrArg some (h.checks.closedForm_congr hbo (fun _ => streamBit_congr h h' hbi hbl hlen hsrc) hk)
    _ = dst.read k := (hfill.read_below hk).symm

end Sys2Proof.Machine

/-! ### Turns, and engine steps seen from outside -/

namespace Sys2Proof.Machine

theorem step_of_host_turn {s : State} {x : Transaction} {rest : List Turn} (h : s.port = .host x :: rest) :
    step s = exec (decode x) { s with port := rest } := by
  simp only [step, takeTurn_cons h]

theorem step_of_engine_turn {s : State} {rest : List Turn} (h : s.port = .engine :: rest) :
    step s = engineStep { s with port := rest } := by
  simp only [step, takeTurn_cons h]

theorem step_of_no_turn {s : State} (h : s.port = []) : step s = engineStep s := by
  simp only [step, takeTurn_nil h]

theorem engineStep_of_idle {s : State} (h : s.phase = .idle) : engineStep s = .next s := by
  simp only [engineStep, h]

theorem engineStep_of_validate {s : State} (h : s.phase = .validate) : engineStep s = validateStep s := by
  simp only [engineStep, h]

theorem engineStep_of_clear {s : State} (h : s.phase = .clear) : engineStep s = clearStep s := by
  simp only [engineStep, h]

theorem engineStep_of_copy {s : State} (h : s.phase = .copy) : engineStep s = copyStep s := by
  simp only [engineStep, h]

theorem engineStep_of_complete {s : State} (h : s.phase = .complete) : engineStep s = completeStep s := by
  simp only [engineStep, h]

/-- Settles O8: whose turn it is, and the rule of the phase IDLE. -/
theorem engineTurnIsOneEngineStep : Obligations.EngineTurnIsOneEngineStep := by
  unfold Obligations.EngineTurnIsOneEngineStep
  exact fun _ => ⟨fun _ => step_of_engine_turn, step_of_no_turn, engineStep_of_idle⟩

/-- A run of the machine goes on from where its first step leads. -/
theorem run_succ_of_step {s t : State} (h : step s = .next t) (k : Nat) :
    Host.Core.run core (k + 1) s = Host.Core.run core k t := by
  have hcore : core.step s = .next t := h
  simp only [Host.Core.run, hcore]

/-! No rule of the engine looks at what the last read returned or at the turns to come. -/

theorem validateStep_outside {s t : State} (h : validateStep s = .next t) (rdata : Word) (port : List Turn) :
    validateStep { s with rdata, port } = .next { t with rdata, port } := by
  cases hc : failedCheck s with
  | none => rw [validateStep_passes hc] at h; cases h; exact validateStep_passes hc
  | some e => rw [validateStep_fails hc] at h; cases h; exact validateStep_fails hc

theorem clearStep_outside {s t : State} (h : clearStep s = .next t) (rdata : Word) (port : List Turn) :
    clearStep { s with rdata, port } = .next { t with rdata, port } := by
  obtain ⟨hr, hlt, rfl⟩ := clearStep_next h
  refine Eq.trans (clearStep_eq hr hlt) (congrArg Host.Outcome.next ?_)
  by_cases hlast : s.clr + 1 = s.n
  · simp only [if_pos hlast]
  · simp only [if_neg hlast]

theorem copied_outside (s : State) (v old : Word) (rdata : Word) (port : List Turn) :
    copied { s with rdata, port } v old = { copied s v old with rdata, port } := by
  by_cases hlast : s.pos + 1 = s.bitsLimit
  · rw [copied_last v old hlast]; exact copied_last v old hlast
  · rw [copied_more v old hlast]; exact copied_more v old hlast

theorem copyStep_outside {s t : State} (h : copyStep s = .next t) (rdata : Word) (port : List Turn) :
    copyStep { s with rdata, port } = .next { t with rdata, port } := by
  obtain ⟨hr, hlt, v, old, hv, ho, rfl⟩ := copyStep_next h
  exact Eq.trans (copyStep_eq hr hlt hv ho) (congrArg Host.Outcome.next (copied_outside s v old rdata port))

theorem engineStep_outside {s t : State} (h : engineStep s = .next t) (rdata : Word) (port : List Turn) :
    engineStep { s with rdata, port } = .next { t with rdata, port } := by
  unfold engineStep at h
  split at h
  next hph => cases h; exact engineStep_of_idle hph
  next hph => exact Eq.trans (engineStep_of_validate hph) (validateStep_outside h rdata port)
  next hph => exact Eq.trans (engineStep_of_clear hph) (clearStep_outside h rdata port)
  next hph => exact Eq.trans (engineStep_of_copy hph) (copyStep_outside h rdata port)
  next hph => cases h; exact engineStep_of_complete hph

/-! ### What an engine run that leaves the command running keeps -/

/-- Only the steps that end a command write the flags and the output length, and both clear `BUSY`. -/
theorem EngineEffect.status_kept_of_busy {s t : State} (h : EngineEffect s t) (hb : t.busy = true) :
    StatusKept s t := by
  cases h with
  | error | complete => simp at hb
  | rest => exact .refl s
  | pass | clearMore | clearLast | copyMore | copyLast => exact ⟨rfl, rfl, rfl, rfl⟩

theorem StatusKept.trans {s t u : State} (h : StatusKept s t) (h' : StatusKept t u) : StatusKept s u :=
  ⟨h'.busy.trans h.busy, h'.done.trans h.done, h'.ecode.trans h.ecode, h'.outLen.trans h.outLen⟩

theorem EngineFrame.refl (s : State) : EngineFrame s s := by constructor <;> rfl

theorem EngineFrame.trans {s t u : State} (h : EngineFrame s t) (h' : EngineFrame t u) : EngineFrame s u where
  config := h'.config.trans h.config
  srcWc := h'.srcWc.trans h.srcWc
  dstWc := h'.dstWc.trans h.dstWc
  bitsIn := h'.bitsIn.trans h.bitsIn
  bitsOut := h'.bitsOut.trans h.bitsOut
  bitsLimit := h'.bitsLimit.trans h.bitsLimit
  srcLen := h'.srcLen.trans h.srcLen
  srcIdx := h'.srcIdx.trans h.srcIdx
  dstIdx := h'.dstIdx.trans h.dstIdx
  src := h'.src.trans h.src
  rdata := h'.rdata.trans h.rdata
  port := h'.port.trans h.port

theorem engineRun_succ {j : Nat} {s u : State} (h : engineRun (j + 1) s = .next u) :
    ∃ t, engineStep s = .next t ∧ engineRun j t = .next u := by
  simp only [engineRun] at h
  split at h
  next t hstep => exact ⟨t, hstep, h⟩
  · cases h
  · cases h

theorem engineRun_frame {j : Nat} {s u : State} (h : engineRun j s = .next u) : EngineFrame s u := by
  induction j generalizing s with
  | zero => cases h; exact .refl _
  | succ j ih =>
    obtain ⟨t, hstep, hrun⟩ := engineRun_succ h
    exact (engineStep_frame hstep).trans (ih hrun)

/-- The engine never sets `BUSY`: a run that ends busy was busy all along, so none of its steps ended the command. -/
theorem engineRun_status_kept {j : Nat} {s u : State} (h : engineRun j s = .next u) (hb : u.busy = true) :
    StatusKept s u := by
  induction j generalizing s with
  | zero => cases h; exact .refl _
  | succ j ih =>
    obtain ⟨t, hstep, hrun⟩ := engineRun_succ h
    have hkept := ih hrun
    exact ((engineStep_effect hstep).status_kept_of_busy (hkept.busy.symm.trans hb)).trans hkept

/-! ### Host turns between the engine's steps -/

theorem exec_of_busy (i : Instr) {s : State} (hb : s.busy = true) : ∃ v, exec i s = .next (s.reply v) := by
  cases hi : i.isWrite with
  | true => exact ⟨s.rdata, exec_write_of_busy hb hi⟩
  | false => exact exec_read_of_busy hb hi

theorem engine_turn_outside {s t : State} (h : engineStep s = .next t) (rdata : Word) (port : List Turn) :
    step { s with port := .engine :: port, rdata } = .next { t with port, rdata } :=
  Eq.trans (step_of_engine_turn rfl) (engineStep_outside h rdata port)

theorem host_turn_of_busy (x : Transaction) {s : State} (hb : s.busy = true) (rdata : Word) (port : List Turn) :
    ∃ v, step { s with port := .host x :: port, rdata } = .next { s with port, rdata := v } := by
  obtain ⟨v, hv⟩ := exec_of_busy (decode x) (s := { s with port, rdata }) hb
  exact ⟨v, Eq.trans (step_of_host_turn rfl) hv⟩

/-- The run of the whole machine beside the run of its engine alone: after every turn the two differ in the data last
read and in the turns to come only, whatever was read before. -/
theorem run_turns_of_engineRun {turns : List Turn} {s u : State} (hreset : Turn.reset ∉ turns)
    (hrun : engineRun (turns.count .engine) s = .next u) (hb : u.busy = true) (rest : List Turn) (rdata : Word) :
    ∃ v, Host.Core.run core turns.length { s with port := turns ++ rest, rdata } =
      .next { u with port := rest, rdata := v } := by
  induction turns generalizing s rdata with
  | nil => cases hrun; exact ⟨rdata, rfl⟩
  | cons turn turns ih =>
    obtain ⟨hturn, hlater⟩ := List.ne_and_not_mem_of_not_mem_cons hreset
    cases turn with
    | reset => exact absurd rfl hturn
    | engine =>
      rw [List.count_cons_self] at hrun
      obtain ⟨t, hstep, hrun⟩ := engineRun_succ hrun
      obtain ⟨v, hv⟩ := ih hlater hrun rdata
      exact ⟨v, (run_succ_of_step (engine_turn_outside hstep rdata (turns ++ rest)) turns.length).trans hv⟩
    | host x =>
      rw [List.count_cons_of_ne (by simp)] at hrun
      have hbusy : s.busy = true := (engineRun_status_kept hrun hb).busy.symm.trans hb
      obtain ⟨read, hread⟩ := host_turn_of_busy x hbusy rdata (turns ++ rest)
      obtain ⟨v, hv⟩ := ih hlater hrun read
      exact ⟨v, (run_succ_of_step hread turns.length).trans hv⟩

/-- Settles O49, by induction on the turns: an engine turn is the next step of the engine's own run, and a host turn
leaves that run where it is. -/
theorem hostTurnsDoNotDisturbARunningCommand : Obligations.HostTurnsDoNotDisturbARunningCommand := by
  unfold Obligations.HostTurnsDoNotDisturbARunningCommand
  intro s u turns rest _ hreset hrun hb
  exact run_turns_of_engineRun hreset hrun hb rest s.rdata

/-! ### What a read returns -/

/-- The data a read returns that reaches no buffer entry: a register's word, and 0 where there is none. -/
def readValue (s : State) : Instr → Word
  | .rdStatus => statusWord s
  | .rdCfg => cfgWord s
  | .rdBitsIn => s.bitsIn
  | .rdBitsOut => s.bitsOut
  | .rdBitsLimit => s.bitsLimit
  | .rdSrcLen => s.srcLen
  | .rdOutLen => s.outLen
  | .rdSrcIdx => s.srcIdx
  | .rdDstIdx => s.dstIdx
  | .rdCaps => capsWord s
  | _ => 0

theorem readValue_reply (s : State) (v : Word) (i : Instr) : readValue (s.reply v) i = readValue s i := by
  cases i <;> rfl

theorem exec_register_read {i : Instr} (hi : i.isWrite = false) (hsrc : i ≠ .rdSrcData) (hdst : i ≠ .rdDstData)
    (s : State) : exec i s = .next (s.reply (readValue s i)) := by
  cases i with
  | rdSrcData => exact absurd rfl hsrc
  | rdDstData => exact absurd rfl hdst
  | rdCtrl | rdStatus | rdCfg | rdBitsIn | rdBitsOut | rdBitsLimit | rdSrcLen | rdOutLen | rdSrcIdx | rdDstIdx
  | rdCaps | rdRsvd => rfl
  | _ => simp [Instr.isWrite] at hi

/-- While busy the two windows return 0, as a read without a register does. -/
theorem exec_read_of_busy_value {i : Instr} {s : State} (hb : s.busy = true) (hi : i.isWrite = false) :
    exec i s = .next (s.reply (readValue s i)) := by
  by_cases hsrc : i = .rdSrcData
  · subst hsrc; exact exec_rdSrcData_of_busy hb
  · by_cases hdst : i = .rdDstData
    · subst hdst; exact exec_rdDstData_of_busy hb
    · exact exec_register_read hi hsrc hdst s

/-- Every word the host can read while busy is kept by the engine steps of a running command. -/
theorem readValue_kept {s u : State} (hf : EngineFrame s u) (hk : StatusKept s u) (i : Instr) :
    readValue u i = readValue s i := by
  cases i with
  | rdStatus => simp only [readValue, statusWord, hk.busy, hk.done, hk.ecode]
  | rdCfg => simp only [readValue, cfgWord, hf.srcWc, hf.dstWc]
  | rdBitsIn => exact hf.bitsIn
  | rdBitsOut => exact hf.bitsOut
  | rdBitsLimit => exact hf.bitsLimit
  | rdSrcLen => exact hf.srcLen
  | rdOutLen => exact hk.outLen
  | rdSrcIdx => exact hf.srcIdx
  | rdDstIdx => exact hf.dstIdx
  | rdCaps => simp only [readValue, capsWord, hf.config]
  | _ => rfl

/-- Settles O48: a write is gated, and a read returns one of the words that the running command keeps. -/
theorem hostCannotObserveARunningCommand : Obligations.HostCannotObserveARunningCommand := by
  unfold Obligations.HostCannotObserveARunningCommand
  intro s u j i hs hrun hu
  have hf := engineRun_frame hrun
  cases hi : i.isWrite with
  | true => exact ⟨s.rdata, exec_write_of_busy hs hi, hf.rdata ▸ exec_write_of_busy hu hi⟩
  | false =>
    refine ⟨readValue s i, exec_read_of_busy_value hs hi, ?_⟩
    rw [← readValue_kept hf (engineRun_status_kept hrun hu) i]
    exact exec_read_of_busy_value hu hi

/-! ### Idle window reads -/

theorem exec_rdSrcData_of_idle {s : State} {v : Word} (hb : s.busy = false)
    (hv : windowValue s.config.srcDepth s.srcIdx s.src = some v) :
    exec .rdSrcData s = .next (s.advanceSrc.reply v) := by
  simp [exec, execRdSrcData, hb, hv]

theorem exec_rdDstData_of_idle {s : State} {v : Word} (hb : s.busy = false)
    (hv : windowValue s.config.dstDepth s.dstIdx s.dst = some v) :
    exec .rdDstData s = .next (s.advanceDst.reply v) := by
  simp [exec, execRdDstData, hb, hv]

theorem exec_rdSrcData_next {s t : State} (hb : s.busy = false) (h : exec .rdSrcData s = .next t) :
    ∃ v, t = s.advanceSrc.reply v := by
  obtain ⟨hbusy, -⟩ | ⟨-, v, -, hv⟩ | ⟨-, -, hfault⟩ := execRdSrcData_cases s
  · simp [hb] at hbusy
  · exact ⟨v, Host.Outcome.next.inj (h.symm.trans hv)⟩
  · cases h.symm.trans hfault

theorem exec_rdDstData_next {s t : State} (hb : s.busy = false) (h : exec .rdDstData s = .next t) :
    ∃ v, t = s.advanceDst.reply v := by
  obtain ⟨hbusy, -⟩ | ⟨-, v, -, hv⟩ | ⟨-, -, hfault⟩ := execRdDstData_cases s
  · simp [hb] at hbusy
  · exact ⟨v, Host.Outcome.next.inj (h.symm.trans hv)⟩
  · cases h.symm.trans hfault

/-- Settles O16: what a register read returns does not depend on the data last read, and an idle window read has its
one side effect in the index. -/
theorem onlyWindowReadsHaveSideEffects : Obligations.OnlyWindowReadsHaveSideEffects := by
  unfold Obligations.OnlyWindowReadsHaveSideEffects
  intro s
  refine ⟨fun i hi hsrc hdst => ⟨readValue s i, exec_register_read hi hsrc hdst s, ?_⟩, fun t hb h => ?_,
    fun t hb h => ?_⟩
  · have hagain := exec_register_read hi hsrc hdst (s.reply (readValue s i))
    rwa [readValue_reply] at hagain
  · obtain ⟨v, rfl⟩ := exec_rdSrcData_next hb h
    rfl
  · obtain ⟨v, rfl⟩ := exec_rdDstData_next hb h
    rfl

/-! ### Window accesses at or beyond the depth -/

theorem storeSrc_outside {s : State} (h : s.config.srcDepth.toNat ≤ s.srcIdx.toNat) (w : Word) : s.storeSrc w = s :=
  if_neg (Nat.not_lt.2 h)

theorem exec_wrSrcData_outside {s : State} (hb : s.busy = false) (h : s.config.srcDepth.toNat ≤ s.srcIdx.toNat)
    (w : Word) : exec (.wrSrcData w) s = .next s.advanceSrc := by
  rw [exec_wrSrcData, hostWrite_idle hb, storeSrc_outside h]

/-- An index advances modulo `2^64` (10_state.md R24). -/
theorem toNat_succ_mod (index : Word) : (index + 1).toNat = (index.toNat + 1) % 2 ^ 64 := BitVec.toNat_add index 1

/-- Settles O23: at or beyond the depth a window has the value 0, a store leaves the state as it is, and the index
advances all the same. -/
theorem outOfRangeWindowAccessReachesNothing : Obligations.OutOfRangeWindowAccessReachesNothing := by
  unfold Obligations.OutOfRangeWindowAccessReachesNothing
  intro s w hb
  refine ⟨fun hsrc => ⟨?_, ?_⟩, fun hdst => ?_⟩
  · exact ⟨_, exec_rdSrcData_of_idle hb (windowValue_outside hsrc), rfl, toNat_succ_mod s.srcIdx⟩
  · exact ⟨_, exec_wrSrcData_outside hb hsrc w, rfl, toNat_succ_mod s.srcIdx⟩
  · exact ⟨_, exec_rdDstData_of_idle hb (windowValue_outside hdst), rfl, toNat_succ_mod s.dstIdx⟩

end Sys2Proof.Machine

/-! ### The offset bits that name no register -/

namespace Sys2Proof

/-- The cleared bits lie below the slot. -/
theorem slot_clear_low_bits (t : Transaction) : Transaction.slot { t with offset := t.offset &&& 0xFF8 } = t.slot := by
  have hmask : (0xFF8 : BitVec 12).extractLsb' 3 9 = BitVec.allOnes 9 := by decide
  simp only [Transaction.slot, BitVec.extractLsb'_and, hmask, BitVec.and_allOnes]

/-- Settles O2: the decoder looks at the direction, the slot and the write data only. -/
theorem offsetLowBitsAreIgnored : Obligations.OffsetLowBitsAreIgnored := by
  unfold Obligations.OffsetLowBitsAreIgnored
  intro t
  simp only [decode, slot_clear_low_bits]

end Sys2Proof

/-! ### The serial form of a transaction -/

namespace Sys2Proof

/-- The bytes of a word, joined from the top, are the word: two runs of bits that meet are one run. -/
theorem wordOfBytes_bytes (w : Word) :
    wordOfBytes (w.extractLsb' 0 8) (w.extractLsb' 8 8) (w.extractLsb' 16 8) (w.extractLsb' 24 8)
      (w.extractLsb' 32 8) (w.extractLsb' 40 8) (w.extractLsb' 48 8) (w.extractLsb' 56 8) = w := by
  have join {hi lo len : Nat} (h : hi = lo + 8) :
      w.extractLsb' hi len ++ w.extractLsb' lo 8 = w.extractLsb' lo (len + 8) :=
    BitVec.extractLsb'_append_extractLsb'_eq_extractLsb' h
  simp only [wordOfBytes, join]
  exact BitVec.extractLsb'_eq_self

/-- The two bytes of a selector hold the direction above the high four bits of the offset. -/
theorem selectorBytes_fields (isWrite : Bool) (offset : BitVec 12) :
    (0#3 ++ BitVec.ofBool isWrite ++ offset.extractLsb' 8 4).getLsbD 4 = isWrite ∧
    (0#3 ++ BitVec.ofBool isWrite ++ offset.extractLsb' 8 4).extractLsb' 0 4 ++ offset.extractLsb' 0 8 = offset := by
  refine ⟨?_, ?_⟩
  · rw [BitVec.getLsbD_append, BitVec.getLsbD_append]; simp
  · rw [BitVec.extractLsb'_append_eq_right]
    exact BitVec.extractLsb'_append_extractLsb'

/-- The serial form gives the transaction back, whatever bytes follow (log entry 8). -/
theorem transactionOfBytes_bytesOfTransaction (t : Transaction) (rest : List Byte) :
    transactionOfBytes (bytesOfTransaction t ++ rest) = .ok (t, rest) := by
  obtain ⟨hwrite, hoffset⟩ := selectorBytes_fields t.isWrite t.offset
  simp only [bytesOfTransaction, bytesOfWord, List.cons_append, List.nil_append, transactionOfBytes, hwrite, hoffset,
    wordOfBytes_bytes]

/-! ### Decoding what was encoded -/

/-- A named row's slot selects its row by computation; a reserved row is the last of its direction. -/
theorem decode_encode {i : Instr} (h : i.wellFormed = true) : decode (encode i) = i := by
  cases i with
  | rdRsvd slot => exact (decode_readAt slot).trans (decodeRead_reserved h)
  | wrRsvd slot w => exact (decode_writeAt slot w).trans (decodeWrite_reserved w h)
  | rdCtrl | rdStatus | rdCfg | rdBitsIn | rdBitsOut | rdBitsLimit | rdSrcLen | rdOutLen | rdSrcIdx | rdSrcData
  | rdDstIdx | rdDstData | rdCaps => exact decode_readAt _
  | wrCtrl w | wrStatus w | wrCfg w | wrBitsIn w | wrBitsOut w | wrBitsLimit w | wrSrcLen w | wrOutLen w | wrSrcIdx w
  | wrSrcData w | wrDstIdx w | wrDstData w | wrCaps w => exact decode_writeAt _ w

/-- Settles O4: the serial form gives the transaction back, and the transaction its instruction. -/
theorem decodeOfEncodeIsIdentity : Obligations.DecodeOfEncodeIsIdentity := by
  unfold Obligations.DecodeOfEncodeIsIdentity
  intro i rest h
  simp only [decodeBytes, encodeBytes, transactionOfBytes_bytesOfTransaction, decode_encode h]

/-! ### Encoding what was decoded -/

theorem eq_ofNat_of_toNat_eq {slot : BitVec 9} {k : Nat} (h : slot.toNat = k) : slot = BitVec.ofNat 9 k := by
  rw [← h, BitVec.ofNat_toNat, BitVec.setWidth_eq]

theorem encode_decodeRead (slot : BitVec 9) : encode (decodeRead slot) = readAt slot := by
  unfold decodeRead
  split
  case h_14 => rfl
  all_goals exact congrArg readAt (eq_ofNat_of_toNat_eq ‹_›).symm

theorem encode_decodeWrite (slot : BitVec 9) (w : Word) : encode (decodeWrite slot w) = writeAt slot w := by
  unfold decodeWrite
  split
  case h_14 => rfl
  all_goals exact congrArg (writeAt · w) (eq_ofNat_of_toNat_eq ‹_›).symm

theorem decodeRead_wellFormed (slot : BitVec 9) :
    (decodeRead slot).wellFormed = true ∧ (decodeRead slot).isWrite = false := by
  unfold decodeRead
  split
  case h_14 => exact ⟨(reservedSlot_iff slot).2 (by simp only [imp_false] at *; omega), rfl⟩
  all_goals exact ⟨rfl, rfl⟩

theorem decodeWrite_wellFormed (slot : BitVec 9) (w : Word) :
    (decodeWrite slot w).wellFormed = true ∧ (decodeWrite slot w).isWrite = true := by
  unfold decodeWrite
  split
  case h_14 => exact ⟨(reservedSlot_iff slot).2 (by simp only [imp_false] at *; omega), rfl⟩
  all_goals exact ⟨rfl, rfl⟩

/-- A slot's own offset is the offset it was taken from, bits 2:0 cleared (20_memory.md R40). -/
theorem slot_offset (t : Transaction) : t.slot ++ 0#3 = t.offset &&& 0xFF8 := by
  have hparts : t.slot ++ t.offset.extractLsb' 0 3 = t.offset :=
    BitVec.extractLsb'_append_extractLsb' (w := 9) (len := 3) (x := t.offset)
  have hmask : BitVec.allOnes 9 ++ 0#3 = (0xFF8 : BitVec 12) := by decide
  calc t.slot ++ 0#3 = (t.slot &&& BitVec.allOnes 9) ++ (t.offset.extractLsb' 0 3 &&& 0#3) := by
        rw [BitVec.and_allOnes, BitVec.and_zero]
    _ = (t.slot ++ t.offset.extractLsb' 0 3) &&& (BitVec.allOnes 9 ++ 0#3) := BitVec.and_append.symm
    _ = t.offset &&& 0xFF8 := congrArg₂ _ hparts hmask

theorem decode_wellFormed (t : Transaction) : (decode t).wellFormed = true ∧ (decode t).isWrite = t.isWrite := by
  unfold decode
  cases t.isWrite with
  | false => exact decodeRead_wellFormed t.slot
  | true => exact decodeWrite_wellFormed t.slot t.wdata

theorem encode_decode (t : Transaction) :
    encode (decode t) =
      { isWrite := t.isWrite, offset := t.offset &&& 0xFF8, wdata := if t.isWrite then t.wdata else 0 } := by
  rw [← slot_offset]
  unfold decode
  cases t.isWrite with
  | false => exact encode_decodeRead t.slot
  | true => exact encode_decodeWrite t.slot t.wdata

/-- Settles O3: both directions decode by slot, and a slot's own offset has bits 2:0 clear. -/
theorem reencodingKeepsAllButIgnoredBits : Obligations.ReencodingKeepsAllButIgnoredBits := by
  unfold Obligations.ReencodingKeepsAllButIgnoredBits
  exact fun t => ⟨(decode_wellFormed t).1, (decode_wellFormed t).2, encode_decode t⟩

/-! ### The opcode table -/

/-- The encoding of a well-formed instruction selects the instruction's own row (30_encoding.md R62). -/
theorem tableMnemonic_encode {i : Instr} (h : i.wellFormed = true) :
    tableMnemonic (encode i).selector = some i.mnemonic := by
  cases i with
  | rdCtrl => exact Laws.TableRow.rdCtrl h
  | rdStatus => exact Laws.TableRow.rdStatus h
  | rdCfg => exact Laws.TableRow.rdCfg h
  | rdBitsIn => exact Laws.TableRow.rdBitsIn h
  | rdBitsOut => exact Laws.TableRow.rdBitsOut h
  | rdBitsLimit => exact Laws.TableRow.rdBitsLimit h
  | rdSrcLen => exact Laws.TableRow.rdSrcLen h
  | rdOutLen => exact Laws.TableRow.rdOutLen h
  | rdSrcIdx => exact Laws.TableRow.rdSrcIdx h
  | rdSrcData => exact Laws.TableRow.rdSrcData h
  | rdDstIdx => exact Laws.TableRow.rdDstIdx h
  | rdDstData => exact Laws.TableRow.rdDstData h
  | rdCaps => exact Laws.TableRow.rdCaps h
  | rdRsvd slot => exact Laws.TableRow.rdRsvd slot h
  | wrCtrl w => exact Laws.TableRow.wrCtrl w h
  | wrStatus w => exact Laws.TableRow.wrStatus w h
  | wrCfg w => exact Laws.TableRow.wrCfg w h
  | wrBitsIn w => exact Laws.TableRow.wrBitsIn w h
  | wrBitsOut w => exact Laws.TableRow.wrBitsOut w h
  | wrBitsLimit w => exact Laws.TableRow.wrBitsLimit w h
  | wrSrcLen w => exact Laws.TableRow.wrSrcLen w h
  | wrOutLen w => exact Laws.TableRow.wrOutLen w h
  | wrSrcIdx w => exact Laws.TableRow.wrSrcIdx w h
  | wrSrcData w => exact Laws.TableRow.wrSrcData w h
  | wrDstIdx w => exact Laws.TableRow.wrDstIdx w h
  | wrDstData w => exact Laws.TableRow.wrDstData w h
  | wrCaps w => exact Laws.TableRow.wrCaps w h
  | wrRsvd slot w => exact Laws.TableRow.wrRsvd slot w h

/-- No row of the table looks at selector bits 2:0. -/
theorem opcodeTable_masks : ∀ r ∈ opcodeTable, 0x1FF8 &&& r.mask = r.mask := by decide

theorem tableMnemonic_clear_low_bits (sel : BitVec 13) : tableMnemonic (sel &&& 0x1FF8) = tableMnemonic sel := by
  refine congrArg (Option.map OpcodeRow.mnemonic) (List.find?_congr fun r hr => ?_)
  rw [OpcodeRow.matches, OpcodeRow.matches, BitVec.and_assoc, opcodeTable_masks r hr]

/-- Bits 2:0 of a selector are those of its offset (30_encoding.md R59). -/
theorem selector_clear_low_bits (isWrite : Bool) (offset : BitVec 12) :
    BitVec.ofBool isWrite ++ (offset &&& 0xFF8) = (BitVec.ofBool isWrite ++ offset) &&& (0x1FF8 : BitVec 13) := by
  have hmask : BitVec.allOnes 1 ++ (0xFF8 : BitVec 12) = (0x1FF8 : BitVec 13) := by decide
  calc BitVec.ofBool isWrite ++ (offset &&& 0xFF8)
    _ = (BitVec.ofBool isWrite &&& BitVec.allOnes 1) ++ (offset &&& 0xFF8) := by rw [BitVec.and_allOnes]
    _ = (BitVec.ofBool isWrite ++ offset) &&& (BitVec.allOnes 1 ++ 0xFF8) := BitVec.and_append.symm
    _ = (BitVec.ofBool isWrite ++ offset) &&& 0x1FF8 := congrArg _ hmask
theorem selector_encode_decode (t : Transaction) : (encode (decode t)).selector = t.selector &&& 0x1FF8 := by
  rw [encode_decode]
  exact selector_clear_low_bits t.isWrite t.offset

/-- Settles O1: a transaction selects the row that its re-encoding selects, which is the row of the instruction. -/
theorem decodeFollowsTheOpcodeTable : Obligations.DecodeFollowsTheOpcodeTable := by
  unfold Obligations.DecodeFollowsTheOpcodeTable
  intro t
  rw [← tableMnemonic_clear_low_bits, ← selector_encode_decode]
  exact tableMnemonic_encode (decode_wellFormed t).1

/-- Settles O5: seven words, each decoded by computation. -/
theorem selectorWordsDecode : Obligations.SelectorWordsDecode := by
  unfold Obligations.SelectorWordsDecode
  decide

end Sys2Proof

/-! ### Script lines -/

namespace Sys2Proof.Machine

/-- A write's direction is bit 12, above the offset. -/
theorem selector_write (offset : BitVec 12) : BitVec.ofBool true ++ offset = 0x1000 ||| offset.setWidth 13 := by
  have hbit : BitVec.ofBool true ++ 0#12 = (0x1000 : BitVec 13) := by decide
  have hoffset : 0#1 ++ offset = offset.setWidth 13 := (BitVec.setWidth_eq_append (by decide)).symm
  calc BitVec.ofBool true ++ offset = (BitVec.ofBool true ||| 0#1) ++ (0#12 ||| offset) := by
        rw [BitVec.or_zero, BitVec.zero_or]
    _ = (BitVec.ofBool true ++ 0#12) ||| (0#1 ++ offset) := BitVec.or_append.symm
    _ = 0x1000 ||| offset.setWidth 13 := congrArg₂ _ hbit hoffset
theorem selector_read (offset : BitVec 12) : BitVec.ofBool false ++ offset = offset.setWidth 13 :=
  (BitVec.setWidth_eq_append (by decide)).symm

/-- A line whose transaction encodes an instruction performs that instruction. -/
theorem decode_line {l : Line} {i : Instr} (h : l.transaction = encode i) (hi : i.wellFormed = true) :
    decode l.transaction = i := by
  rw [h, decode_encode hi]

/-- Settles O6: the direction stands above the offset, and a named register's line is the encoding of its operation. -/
theorem scriptLinesPerformTheirRegister : Obligations.ScriptLinesPerformTheirRegister := by
  unfold Obligations.ScriptLinesPerformTheirRegister
  refine ⟨fun r v => ⟨selector_write r.offset, rfl, selector_read r.offset⟩, fun v => ?_, ?_⟩
  · exact ⟨decode_line rfl rfl, decode_line rfl rfl, decode_line rfl rfl, decode_line rfl rfl, decode_line rfl rfl,
      decode_line rfl rfl, decode_line rfl rfl, decode_line rfl rfl, decode_line rfl rfl⟩
  · exact ⟨decode_line rfl rfl, decode_line rfl rfl, decode_line rfl rfl, decode_line rfl rfl⟩

end Sys2Proof.Machine

/-! ### One item of a host program -/

namespace Sys2Proof.Machine

/-- Turns that answer a next state, in two parts. -/
theorem takeTurns_append_next {turns later : List Turn} {s u : State} (h : takeTurns (turns ++ later) s = .next u) :
    ∃ t, takeTurns turns s = .next t ∧ takeTurns later t = .next u := by
  induction turns generalizing s with
  | nil => exact ⟨s, rfl, h⟩
  | cons turn turns ih =>
    simp only [takeTurns, List.cons_append] at h ⊢
    split at h
    next t hstep => exact ih h
    · cases h
    · cases h

/-- A program that goes on has performed its next item after the others' turns. -/
theorem runScript_cons_next {r r' : HostRun} {item : ScriptItem} {rest : List ScriptItem} {turns : List Turn}
    {schedule : List (List Turn)} (hi : r.items = item :: rest)
    (h : runScript (turns :: schedule) r = .next r') :
    ∃ t u, takeTurns turns r.state = .next t ∧ exec (decode item.nextLine.transaction) t = .next u ∧
      runScript schedule (r.performed item rest u) = .next r' := by
  simp only [runScript, hi] at h
  split at h
  next u hturns =>
    obtain ⟨t, ht, hu⟩ := takeTurns_append_next hturns
    exact ⟨t, u, ht, (takeTurns_host _ t).symm.trans hu, h⟩
  · cases h
  · cases h

/-! #### A line -/

/-- A line is performed once; a read's data is its result (30_encoding.md R67). -/
theorem HostRun.performed_line (l : Line) (rest : List ScriptItem) (u : State) (r : HostRun) :
    r.performed (.line l) rest u =
      if l.transaction.isWrite then { r with items := rest, state := u }
      else { items := rest, reads := r.reads ++ [u.rdata], results := r.results ++ [u.rdata], state := u } := by
  cases l with
  | wr | rd => rfl

/-! #### A read of `POLL` -/

/-- The host after a read of `POLL` in the state `t` that has found `BUSY = 1`. -/
def HostRun.pollAgain (t : State) (r : HostRun) : HostRun :=
  { r with reads := r.reads ++ [statusWord t], state := t.reply (statusWord t) }

/-- The host after a read of `POLL` in the state `t` that has found `BUSY = 0`. -/
def HostRun.pollEnded (rest : List ScriptItem) (t : State) (r : HostRun) : HostRun :=
  { items := rest, reads := r.reads ++ [statusWord t], results := r.results ++ [statusWord t],
    state := t.reply (statusWord t) }

theorem exec_poll (t : State) :
    exec (decode ScriptItem.poll.nextLine.transaction) t = .next (t.reply (statusWord t)) := by
  rw [decode_status_line]; rfl

theorem HostRun.performed_poll_of_busy {t : State} (hb : t.busy = true) (rest : List ScriptItem) (r : HostRun) :
    r.performed .poll rest (t.reply (statusWord t)) = r.pollAgain t :=
  HostRun.performed_poll_again ((statusWord_busy t).trans hb) rest r

theorem HostRun.performed_poll_of_idle {t : State} (hb : t.busy = false) (rest : List ScriptItem) (r : HostRun) :
    r.performed .poll rest (t.reply (statusWord t)) = r.pollEnded rest t :=
  HostRun.performed_poll_ends ((statusWord_busy t).trans hb) rest r

/-! #### The expansions of R68 with as many lines as their arguments ask for -/

theorem expand_loadSrc (k : Word) (values : List Word) :
    Pseudo.expand (.loadSrc k values) =
      (Line.wr (.named .srcIdx) k :: values.map (Line.wr (.named .srcData))).map .line := by
  rw [List.map_cons, List.map_map]; rfl

theorem expand_readDst (k : Word) (count : Nat) :
    Pseudo.expand (.readDst k count) =
      (Line.wr (.named .dstIdx) k :: List.replicate count (Line.rd (.named .dstData))).map .line := by
  rw [List.map_cons, List.map_replicate]; rfl

/-- Settles O50: the expansions are lists of lines, and an item is performed after the turns before it. -/
theorem pseudoInstructionsRunAsWritten : Obligations.PseudoInstructionsRunAsWritten := by
  unfold Obligations.PseudoInstructionsRunAsWritten
  refine ⟨fun k wc1 wc2 bi bo bl len values count => ⟨⟨[.wr (.named .ctrl) 1], rfl, rfl⟩,
    ⟨[.wr (.named .cfg) (wc2 <<< 8 ||| wc1), .wr (.named .bitsIn) bi, .wr (.named .bitsOut) bo,
      .wr (.named .bitsLimit) bl, .wr (.named .srcLen) len], rfl, rfl⟩,
    ⟨_, expand_loadSrc k values, ?_⟩, ⟨_, expand_readDst k count, ?_⟩, rfl, rfl⟩,
    fun r rest turns schedule t ht => ⟨fun l u hi hu => ?_, fun hi => ?_⟩⟩
  · rw [List.map_cons, List.map_map]; rfl
  · rw [List.map_cons, List.map_replicate]; rfl
  · rw [runScript_item hi ht hu, HostRun.performed_line]
  · refine ⟨statusWord t, rfl, statusWord_busy t, fun hb => ?_, fun hb => ?_⟩
    · rw [runScript_item hi ht (exec_poll t), HostRun.performed_poll_of_busy hb]; rfl
    · rw [runScript_item hi ht (exec_poll t), HostRun.performed_poll_of_idle hb]; rfl

/-! ### The run of a `POLL` -/

/-- A word that `POLL` has read in a state of `P` with `BUSY = 1`. -/
def BusyRead (P : State → Prop) (x : Word) : Prop := ∃ u, P u ∧ u.busy = true ∧ x = statusWord u

theorem BusyRead.busy_bit {P : State → Prop} {x : Word} (h : BusyRead P x) : x.getLsbD 0 = true := by
  obtain ⟨u, -, hb, rfl⟩ := h
  exact (statusWord_busy u).trans hb

/-- How a `POLL` that `r` is about to perform stands after `n` entries of the schedule, if its reads are performed in
states of `P`: it has read once for each entry and is to be performed again, or it has ended. -/
inductive Polled (P : State → Prop) (n : Nat) (r : HostRun) : HostRun → Prop where
  | again (earlier : List Word) (t : State) : (∀ x ∈ earlier, BusyRead P x) → earlier.length = n →
      Polled P n r { r with reads := r.reads ++ earlier, state := t }
  | ended (earlier : List Word) (t : State) : (∀ x ∈ earlier, BusyRead P x) → earlier.length < n → P t →
      t.busy = false →
      Polled P n r (HostRun.pollEnded [] t { r with reads := r.reads ++ earlier })

theorem Polled.unread (P : State → Prop) (r : HostRun) : Polled P 0 r r := by
  have h := Polled.again (P := P) (r := r) [] r.state (by simp) rfl
  rwa [List.append_nil] at h

theorem Polled.first_read_ends {P : State → Prop} {t : State} (n : Nat) (r : HostRun) (ht : P t)
    (hb : t.busy = false) : Polled P (n + 1) r (r.pollEnded [] t) := by
  have h := Polled.ended (r := r) [] t (by simp) n.succ_pos ht hb
  rwa [List.append_nil] at h

/-- One read more before the others. -/
theorem Polled.after_read {P : State → Prop} {n : Nat} {r r' : HostRun} {u : State} (hu : P u) (hb : u.busy = true)
    (h : Polled P n (r.pollAgain u) r') : Polled P (n + 1) r r' := by
  have hread : BusyRead P (statusWord u) := ⟨u, hu, hb, rfl⟩
  have hreads (earlier : List Word) : r.reads ++ statusWord u :: earlier = (r.pollAgain u).reads ++ earlier :=
    List.append_cons _ _ _
  cases h with
  | again earlier t hearlier hlen =>
    rw [← hreads]
    exact .again _ t (List.forall_mem_cons.2 ⟨hread, hearlier⟩) (congrArg Nat.succ hlen)
  | ended earlier t hearlier hlen ht hidle =>
    rw [← hreads]
    exact .ended _ t (List.forall_mem_cons.2 ⟨hread, hearlier⟩) (Nat.succ_lt_succ hlen) ht hidle

/-- A `POLL` that starts in a state of `P`, which the turns of the schedule and its own reads keep. -/
theorem runScript_poll {P : State → Prop} {schedule : List (List Turn)} {r r' : HostRun}
    (hturns : ∀ turns ∈ schedule, ∀ s t, P s → takeTurns turns s = .next t → P t)
    (hreply : ∀ s v, P s → P (s.reply v)) (hi : r.items = [.poll]) (hr : P r.state)
    (h : runScript schedule r = .next r') : Polled P schedule.length r r' := by
  induction schedule generalizing r with
  | nil =>
    cases h
    exact .unread P _
  | cons turns schedule ih =>
    obtain ⟨hfirst, hlater⟩ := List.forall_mem_cons.1 hturns
    obtain ⟨t, u, ht, hu, hrest⟩ := runScript_cons_next hi h
    have hPt : P t := hfirst r.state t hr ht
    obtain rfl : t.reply (statusWord t) = u := Host.Outcome.next.inj ((exec_poll t).symm.trans hu)
    cases hb : t.busy with
    | true =>
      rw [HostRun.performed_poll_of_busy hb] at hrest
      exact (ih (r := r.pollAgain t) hlater hi (hreply t _ hPt) hrest).after_read hPt hb
    | false =>
      rw [HostRun.performed_poll_of_idle hb, runScript_over rfl] at hrest
      cases hrest
      exact .first_read_ends _ r hPt hb

/-- Settles O51: `POLL` may read in any state, and bit 0 of what it reads is `BUSY`. -/
theorem pollEndsAtTheFirstReadOfNotBusy : Obligations.PollEndsAtTheFirstReadOfNotBusy := by
  unfold Obligations.PollEndsAtTheFirstReadOfNotBusy
  intro s schedule r h
  cases runScript_poll (P := fun _ => True) (fun _ _ _ _ _ _ => trivial) (fun _ _ _ => trivial) rfl trivial h with
  | again earlier t hearlier hlen =>
    refine ⟨fun hover => absurd hover (List.cons_ne_nil _ _), fun _ => ⟨rfl, rfl, hlen, fun x hx => ?_⟩⟩
    exact (hearlier x hx).busy_bit
  | ended earlier t hearlier hlen _ hb =>
    refine ⟨fun _ => ⟨earlier, statusWord t, rfl, rfl, ?_, fun x hx => (hearlier x hx).busy_bit,
      (statusWord_busy t).trans hb, rfl, hb⟩, fun hnot => absurd rfl hnot⟩
    simpa [HostRun.pollEnded, HostRun.begin] using hlen

/-! ### The outcome of a command, in the engine's own run -/

/-- An engine at rest stays as it is. -/
theorem engineRun_of_idle {s : State} (h : s.phase = .idle) (k : Nat) : engineRun k s = .next s := by
  induction k with
  | zero => rfl
  | succ k ih => simpa only [engineRun, engineStep_of_idle h] using ih

/-- However long it is run, an engine comes to rest in one state. -/
theorem engineRun_idle_unique {j k : Nat} {s u v : State} (hu : engineRun j s = .next u) (huidle : u.phase = .idle)
    (hv : engineRun k s = .next v) (hvidle : v.phase = .idle) : u = v := by
  rcases Nat.le_total j k with hle | hle
  · have := engineRun_add hu (k - j)
    rw [Nat.add_sub_cancel' hle, hv, engineRun_of_idle huidle] at this
    exact (Host.Outcome.next.inj this).symm
  · have := engineRun_add hv (j - k)
    rw [Nat.add_sub_cancel' hle, hu, engineRun_of_idle hvidle] at this
    exact Host.Outcome.next.inj this

/-- The engine clears `BUSY` exactly where it comes to rest (10_state.md R29). -/
theorem EngineEffect.rests_if_not_busy {s t : State} (h : EngineEffect s t) (hs : s.busy = false → s.phase = .idle)
    (ht : t.busy = false) : t.phase = .idle := by
  cases h with
  | rest hidle => exact hidle
  | error | complete => rfl
  | pass hph | clearMore hph | clearLast hph | copyMore _ _ hph | copyLast _ _ hph => simp [hs ht] at hph

theorem engineRun_rests_if_not_busy {j : Nat} {s u : State} (h : engineRun j s = .next u)
    (hs : s.busy = false → s.phase = .idle) : u.busy = false → u.phase = .idle := by
  induction j generalizing s with
  | zero => cases h; exact hs
  | succ j ih =>
    obtain ⟨t, hstep, hrun⟩ := engineRun_succ h
    exact ih hrun ((engineStep_effect hstep).rests_if_not_busy hs)

/-- No rule of the engine looks at what the last read returned. -/
theorem engineRun_outside {j : Nat} {s t : State} (h : engineRun j s = .next t) (rdata : Word) :
    engineRun j { s with rdata } = .next { t with rdata } := by
  induction j generalizing s with
  | zero => cases h; rfl
  | succ j ih =>
    obtain ⟨u, hstep, hrun⟩ := engineRun_succ h
    have hport : u.port = s.port := (engineStep_frame hstep).port
    have hstep' : engineStep { s with rdata } = .next { u with rdata } :=
      (engineStep_outside hstep rdata s.port).trans (by rw [← hport])
    simp only [engineRun, hstep']
    exact ih hrun

/-! ### The run of a `RUN` -/

/-- But for the data last read, `t` is a state of the engine's own run from `c`. -/
def InRunOf (c t : State) : Prop := ∃ j, engineRun j c = .next (t.reply c.rdata)

theorem InRunOf.reply {c t : State} (h : InRunOf c t) (v : Word) : InRunOf c (t.reply v) := h

theorem InRunOf.engine_turns {c s t : State} {turns : List Turn} (h : InRunOf c s)
    (hengine : ∀ turn ∈ turns, turn = .engine) (ht : takeTurns turns s = .next t) : InRunOf c t := by
  obtain ⟨j, hj⟩ := h
  rw [List.eq_replicate_of_mem hengine, takeTurns_engine] at ht
  exact ⟨j + turns.length, (engineRun_add hj _).trans (engineRun_outside ht c.rdata)⟩

/-- While the command runs `STATUS` reads 0x001 (70_reset_and_hazards.md R140). -/
theorem InRunOf.statusWord_of_busy {s t : State} (h : InRunOf s.acceptStart t) (hb : t.busy = true) :
    statusWord t = 0x001 := by
  obtain ⟨j, hj⟩ := h
  have hkept := engineRun_status_kept hj hb
  have hdone : t.done = false := hkept.done
  have hecode : t.ecode = 0 := hkept.ecode
  simp [statusWord, hb, hdone, hecode]

/-- Where the command has ended, its outcome is the state in which the engine alone comes to rest. -/
theorem InRunOf.eq_outcome {s t v : State} {k : Nat} (h : InRunOf s.acceptStart t) (hb : t.busy = false)
    (hv : engineRun k s.acceptStart = .next v) (hidle : v.phase = .idle) : t.reply s.rdata = v := by
  obtain ⟨j, hj⟩ := h
  exact engineRun_idle_unique hj (engineRun_rests_if_not_busy hj (by simp) hb) hv hidle

/-- `START` performed by an idle host: the command is accepted whatever turns of the engine came before it. -/
theorem start_of_idle {s t u : State} {turns : List Turn} (hidle : s.phase = .idle) (hb : s.busy = false)
    (hengine : ∀ turn ∈ turns, turn = .engine) (ht : takeTurns turns s = .next t)
    (hu : exec (decode (wrItem .ctrl 1).nextLine.transaction) t = .next u) : u = s.acceptStart := by
  rw [List.eq_replicate_of_mem hengine, takeTurns_engine, engineRun_of_idle hidle] at ht
  cases ht
  have hline : decode (wrItem .ctrl 1).nextLine.transaction = .wrCtrl 1 := decode_line rfl rfl
  rw [hline, exec_wrCtrl, hostWrite_idle hb] at hu
  exact (Host.Outcome.next.inj hu).symm

/-- A `RUN` that has ended has read 0x001 until it read the `STATUS` of a state in which its command has ended. -/
theorem runScript_run {s : State} {schedule : List (List Turn)} {r : HostRun} (hidle : s.phase = .idle)
    (hb : s.busy = false) (hengine : ∀ turns ∈ schedule, ∀ turn ∈ turns, turn = .engine)
    (h : runScript schedule (.begin (Pseudo.expand .run) s) = .next r) (hover : r.items = []) :
    ∃ k t, InRunOf s.acceptStart t ∧ t.busy = false ∧ r.reads = List.replicate k 0x001 ++ [statusWord t] ∧
      r.results = [statusWord t] ∧ r.state = t.reply (statusWord t) := by
  cases schedule with
  | nil => cases h; cases hover
  | cons turns schedule =>
    obtain ⟨hfirst, hlater⟩ := List.forall_mem_cons.1 hengine
    obtain ⟨t, u, ht, hu, hpoll⟩ := runScript_cons_next rfl h
    obtain rfl := start_of_idle hidle hb hfirst ht hu
    have hkeep : ∀ turns ∈ schedule, ∀ a b, InRunOf s.acceptStart a → takeTurns turns a = .next b →
        InRunOf s.acceptStart b := fun turns hmem a b ha hab => ha.engine_turns (hlater turns hmem) hab
    cases runScript_poll hkeep (fun _ v ha => ha.reply v) rfl ⟨0, rfl⟩ hpoll with
    | again => cases hover
    | ended earlier t hearlier _ hrun hbusy =>
      have hones : ∀ x ∈ earlier, x = 0x001 := fun x hx => by
        obtain ⟨a, ha, hab, rfl⟩ := hearlier x hx
        exact ha.statusWord_of_busy hab
      refine ⟨earlier.length, t, hrun, hbusy, ?_, rfl, rfl⟩
      rw [← List.eq_replicate_of_mem hones]
      rfl

theorem statusWord_reply (s : State) (v : Word) : statusWord (s.reply v) = statusWord s := rfl

theorem statusWord_raiseError (e : ErrorCode) (s : State) :
    statusWord (s.raiseError e) = e.code.setWidth 64 <<< 8 ||| 0x002 := by
  simp [statusWord]

theorem statusWord_succeeded (s : State) (dst : Memory) : statusWord (succeeded s dst) = 0x002 := by
  simp [statusWord, succeeded]

/-- Settles O52: the read that ends the `RUN` is performed where the engine alone has come to rest, which is the error
of the first failing check or the closed form. -/
theorem runReportsTheOutcomeOfItsCommand : Obligations.RunReportsTheOutcomeOfItsCommand := by
  unfold Obligations.RunReportsTheOutcomeOfItsCommand
  intro s schedule r hidle hb hwritten hengine h hover
  obtain ⟨k, t, hrun, hbusy, hreads, hresults, hstate⟩ := runScript_run hidle hb hengine h hover
  rw [hreads, hresults, hstate]
  refine ⟨⟨k, rfl⟩, fun e he => ?_, fun hpass => ?_⟩
  · have hend : engineRun 1 s.acceptStart = .next (s.acceptStart.raiseError e) :=
      engineRun_succ_of_step rfl ((engineStep_of_validate rfl).trans (validateStep_fails he))
    have hout := hrun.eq_outcome hbusy hend rfl
    have hlen : t.outLen = 0 := (congrArg State.outLen hout :)
    have hdst : t.dst = s.dst := (congrArg State.dst hout :)
    refine ⟨?_, hlen, hdst⟩
    rw [← statusWord_reply t s.rdata, hout, statusWord_raiseError]
  · have hready : CommandReady s.acceptStart := ⟨rfl, hpass, hwritten hpass⟩
    obtain ⟨dst, hend, hfill⟩ := hready.run_succeeded
    have hout := hrun.eq_outcome hbusy hend rfl
    have hlen : t.outLen = outputLength s := (congrArg State.outLen hout :)
    have hdst : t.dst = dst := (congrArg State.dst hout :)
    refine ⟨?_, hlen, fun k hk => ?_⟩
    · rw [← statusWord_reply t s.rdata, hout, statusWord_succeeded]
    · rw [← outputLength_toNat] at hk
      exact (congrArg (Memory.read k) hdst).trans (hfill.read_below hk)

end Sys2Proof.Machine

/-! ### Register access: the words that reads assemble -/

namespace Sys2Proof.Machine

/-- A field put at bit `k` of a word, bit by bit (30_encoding.md R61). -/
theorem getLsbD_fieldAt {m : Nat} (x : BitVec m) (k : Nat) {b : Nat} (hb : b < 64) :
    (x.setWidth 64 <<< k).getLsbD b = (decide (k ≤ b) && x.getLsbD (b - k)) := by
  have hk : (!decide (b < k)) = decide (k ≤ b) := by rw [← decide_not, decide_eq_decide, not_lt]
  simp [hb, hk]

/-- The bits of `STATUS`: `ECODE` from bit 8 on, `DONE` at bit 1, `BUSY` at bit 0. -/
theorem statusWord_getLsbD (s : State) {b : Nat} (hb : b < 64) :
    (statusWord s).getLsbD b =
      ((decide (8 ≤ b) && s.ecode.getLsbD (b - 8)) || (decide (b = 1) && s.done) || (decide (b = 0) && s.busy)) := by
  have hdone : (decide (1 ≤ b) && decide (b - 1 = 0)) = decide (b = 1) := by
    rw [← Bool.decide_and, decide_eq_decide]; omega
  rw [statusWord, BitVec.getLsbD_or, BitVec.getLsbD_or, getLsbD_fieldAt _ _ hb, getLsbD_fieldAt _ _ hb,
    BitVec.getLsbD_setWidth, BitVec.getLsbD_ofBool, BitVec.getLsbD_ofBool, ← Bool.and_assoc (decide (1 ≤ b)), hdone]
  simp [hb]

theorem statusWord_done (s : State) : (statusWord s).getLsbD 1 = s.done := by
  rw [statusWord_getLsbD s (by decide)]; simp

theorem statusWord_ecode (s : State) : (statusWord s).extractLsb' 8 4 = s.ecode := by
  refine BitVec.eq_of_getLsbD_eq fun b hb => ?_
  rw [BitVec.getLsbD_extractLsb', statusWord_getLsbD s (by omega)]
  simp [hb, show 8 + b ≠ 1 by omega]

/-- The reserved bits of `STATUS` (10_state.md R17). -/
theorem statusWord_reserved (s : State) {b : Nat} (h : (2 ≤ b ∧ b < 8) ∨ 12 ≤ b) :
    (statusWord s).getLsbD b = false := by
  by_cases hb : b < 64
  · have hecode : (decide (8 ≤ b) && s.ecode.getLsbD (b - 8)) = false := by
      rcases h with ⟨-, hlow⟩ | hhigh
      · simp [Nat.not_le.2 hlow]
      · rw [BitVec.getLsbD_of_ge _ _ (by omega), Bool.and_false]
    rw [statusWord_getLsbD s hb, hecode]
    simp [show b ≠ 1 by omega, show b ≠ 0 by omega]
  · exact BitVec.getLsbD_of_ge _ _ (Nat.not_lt.1 hb)

/-- Settles O12: the word, field by field; the two examples are its value at the flags they name. -/
theorem statusReadAssemblesTheFlags : Obligations.StatusReadAssemblesTheFlags := by
  unfold Obligations.StatusReadAssemblesTheFlags
  intro s
  refine ⟨statusWord s, rfl, statusWord_busy s, statusWord_done s, statusWord_ecode s, fun _ => statusWord_reserved s,
    fun hbusy hdone hecode => ?_, fun hreset => ?_⟩
  · rw [statusWord, hbusy, hdone, hecode]; rfl
  · obtain ⟨hbusy, hdone, hecode⟩ := hreset.flags
    rw [statusWord, hbusy, hdone, hecode]; rfl

/-- `SRC_DEPTH` and `DST_DEPTH` fill the two halves of `CAPS`. -/
theorem capsWord_eq_append (s : State) : capsWord s = s.config.dstDepth ++ s.config.srcDepth := by
  rw [capsWord, BitVec.append_def, BitVec.shiftLeftZeroExtend_eq, BitVec.setWidth'_eq]

/-- Settles O15: each half of an append is read back. -/
theorem capsReadShowsTheDepths : Obligations.CapsReadShowsTheDepths := by
  unfold Obligations.CapsReadShowsTheDepths
  intro s
  refine ⟨capsWord s, rfl, ?_, ?_, fun hconfig => ?_⟩
  · rw [capsWord_eq_append, BitVec.extractLsb'_append_eq_right]
  · rw [capsWord_eq_append, BitVec.extractLsb'_append_eq_left]
  · rw [capsWord, hconfig]; rfl

/-- The two codes stand at their places in `CFG`, and every other bit is 0. -/
theorem cfgWord_fields (s : State) :
    (cfgWord s).extractLsb' 0 2 = s.srcWc ∧ (cfgWord s).extractLsb' 8 2 = s.dstWc ∧
    cfgWord s &&& 0x303 = cfgWord s := by
  have packed : ∀ srcWc dstWc : BitVec 2,
      let word : Word := dstWc.setWidth 64 <<< 8 ||| srcWc.setWidth 64
      word.extractLsb' 0 2 = srcWc ∧ word.extractLsb' 8 2 = dstWc ∧ word &&& 0x303 = word := by decide
  exact packed s.srcWc s.dstWc

/-- A field of a word put back at its own place keeps the word's bits there. -/
theorem getLsbD_extractLsb'_fieldAt (w : Word) (k len : Nat) {b : Nat} (hb : b < 64) :
    ((w.extractLsb' k len).setWidth 64 <<< k).getLsbD b = (decide (k ≤ b ∧ b < k + len) && w.getLsbD b) := by
  rw [getLsbD_fieldAt _ _ hb, BitVec.getLsbD_extractLsb', ← Bool.and_assoc]
  by_cases hk : k ≤ b
  · rw [Nat.add_sub_cancel' hk]; simp [hk, Nat.sub_lt_iff_lt_add' hk]
  · simp [hk]

/-- The width codes taken from a word and put together again are the word under the mask of the two fields. -/
theorem cfgFields_eq_mask (w : Word) :
    (w.extractLsb' 8 2).setWidth 64 <<< 8 ||| (w.extractLsb' 0 2).setWidth 64 = w &&& 0x303 := by
  have hmask : ∀ b < 64, (0x303 : Word).getLsbD b =
      (decide (8 ≤ b ∧ b < 8 + 2) || decide (0 ≤ b ∧ b < 0 + 2)) := by decide
  refine BitVec.eq_of_getLsbD_eq fun b hb => ?_
  have hsrc := getLsbD_extractLsb'_fieldAt w 0 2 hb
  rw [BitVec.shiftLeft_zero] at hsrc
  rw [BitVec.getLsbD_or, BitVec.getLsbD_and, getLsbD_extractLsb'_fieldAt w 8 2 hb, hsrc, hmask b hb,
    ← Bool.and_or_distrib_right, Bool.and_comm]

/-- Settles O13: an idle write takes the two fields of the word, and a read puts them back at their places. -/
theorem cfgStoresTheWidthCodesOnly : Obligations.CfgStoresTheWidthCodesOnly := by
  unfold Obligations.CfgStoresTheWidthCodesOnly
  intro s w
  refine ⟨fun hb => exec_write_of_busy hb rfl, fun hb => ⟨_, ?_, rfl, ?_⟩, cfgWord s, rfl, cfgWord_fields s⟩
  · exact (exec_wrCfg w s).trans (hostWrite_idle hb)
  · rw [← cfgFields_eq_mask w]; rfl

/-- Settles O11: neither read has a register behind it. -/
theorem ctrlAndReservedReadZero : Obligations.CtrlAndReservedReadZero := by
  unfold Obligations.CtrlAndReservedReadZero
  exact fun s slot => ⟨exec_register_read (i := .rdCtrl) rfl (by decide) (by decide) s,
    exec_register_read (i := .rdRsvd slot) rfl (by simp) (by simp) s⟩

/-- Settles O14: the value of each read is its register. -/
theorem registerReadsReturnTheStoredValue : Obligations.RegisterReadsReturnTheStoredValue := by
  unfold Obligations.RegisterReadsReturnTheStoredValue
  intro s
  have stored {i : Instr} (hi : i.isWrite = false) (hsrc : i ≠ .rdSrcData) (hdst : i ≠ .rdDstData) :
      exec i s = .next { s with rdata := readValue s i } := exec_register_read hi hsrc hdst s
  exact ⟨stored rfl (by decide) (by decide), stored rfl (by decide) (by decide), stored rfl (by decide) (by decide),
    stored rfl (by decide) (by decide), stored rfl (by decide) (by decide), stored rfl (by decide) (by decide),
    stored rfl (by decide) (by decide)⟩

/-! ### Register access: writes -/

/-- Settles O17: each write is its register's update behind the busy gate. -/
theorem registerWritesStoreTheWord : Obligations.RegisterWritesStoreTheWord := by
  unfold Obligations.RegisterWritesStoreTheWord
  intro s w
  refine ⟨fun hb => ?_, fun hb => ?_⟩
  · rw [exec_wrBitsIn, exec_wrBitsOut, exec_wrBitsLimit, exec_wrSrcLen, exec_wrSrcIdx, exec_wrDstIdx]
    exact ⟨hostWrite_idle hb, hostWrite_idle hb, hostWrite_idle hb, hostWrite_idle hb, hostWrite_idle hb,
      hostWrite_idle hb⟩
  · have gated {i : Instr} (hi : i.isWrite = true) : exec i s = .next s := exec_write_of_busy hb hi
    exact ⟨gated rfl, gated rfl, gated rfl, gated rfl, gated rfl, gated rfl⟩

/-- Settles O18: the arm of each of these writes answers the state it was given, whatever the flags. -/
theorem readOnlyWritesHaveNoEffect : Obligations.ReadOnlyWritesHaveNoEffect := by
  unfold Obligations.ReadOnlyWritesHaveNoEffect
  exact fun _ _ _ => ⟨rfl, rfl, rfl, rfl, rfl⟩

theorem exec_wrSrcData_inside {s : State} (hb : s.busy = false) (h : s.srcIdx.toNat < s.config.srcDepth.toNat)
    (w : Word) :
    exec (.wrSrcData w) s = .next { s with src := s.src.write s.srcIdx.toNat w, srcIdx := s.srcIdx + 1 } := by
  rw [exec_wrSrcData, hostWrite_idle hb, storeSrc_eq, if_pos h]; rfl

/-- Settles O22: below the depth one entry is written, beyond it none, and the index advances in both cases. -/
theorem sourceWindowWrite : Obligations.SourceWindowWrite := by
  unfold Obligations.SourceWindowWrite
  intro s w
  refine ⟨fun hb => exec_write_of_busy hb rfl, fun hb hin => ?_, fun hb hout => exec_wrSrcData_outside hb hout w⟩
  exact ⟨_, exec_wrSrcData_inside hb hin w, rfl, Memory.read_write_same _ w s.src,
    fun _ hk => Memory.read_write_other hk w s.src⟩

/-! ### Register access: window reads -/

theorem exec_rdSrcData_unwritten {s : State} (hb : s.busy = false)
    (hv : windowValue s.config.srcDepth s.srcIdx s.src = none) :
    exec .rdSrcData s = .fault (.unwrittenSrc s.srcIdx.toNat) := by
  simp [exec, execRdSrcData, hb, hv]

theorem exec_rdDstData_unwritten {s : State} (hb : s.busy = false)
    (hv : windowValue s.config.dstDepth s.dstIdx s.dst = none) :
    exec .rdDstData s = .fault (.unwrittenDst s.dstIdx.toNat) := by
  simp [exec, execRdDstData, hb, hv]

/-- Settles O20: the window's value is the entry below the depth and 0 beyond it. -/
theorem sourceWindowRead : Obligations.SourceWindowRead := by
  unfold Obligations.SourceWindowRead
  intro s
  refine ⟨exec_rdSrcData_of_busy, fun hb hin => ⟨fun v hv => ?_, fun hnone => ?_⟩, fun hb hout => ?_⟩
  · exact exec_rdSrcData_of_idle hb ((windowValue_inside hin).trans hv)
  · exact exec_rdSrcData_unwritten hb ((windowValue_inside hin).trans hnone)
  · exact exec_rdSrcData_of_idle hb (windowValue_outside hout)

/-- Settles O21: the window's value is the entry below the depth and 0 beyond it. -/
theorem destinationWindowRead : Obligations.DestinationWindowRead := by
  unfold Obligations.DestinationWindowRead
  intro s
  refine ⟨exec_rdDstData_of_busy, fun hb hin => ⟨fun v hv => ?_, fun hnone => ?_⟩, fun hb hout => ?_⟩
  · exact exec_rdDstData_of_idle hb ((windowValue_inside hin).trans hv)
  · exact exec_rdDstData_unwritten hb ((windowValue_inside hin).trans hnone)
  · exact exec_rdDstData_of_idle hb (windowValue_outside hout)

/-! ### Register access: who writes `OUT_LEN`, and the step of a host turn -/

theorem EngineEffect.outLen_eq_or_complete {s t : State} (h : EngineEffect s t) :
    t.outLen = s.outLen ∨ s.phase = .complete := by
  cases h with
  | complete hph => exact .inr hph
  | rest | error | pass | clearMore | clearLast | copyMore | copyLast => exact .inl rfl

/-- Settles O27: of the host's effects only an accepted `START` writes the output length, of the engine's only the
COMPLETE step. -/
theorem outLenChangesOnlyAtStartEndAndReset : Obligations.OutLenChangesOnlyAtStartEndAndReset := by
  unfold Obligations.OutLenChangesOnlyAtStartEndAndReset
  intro s t h hne
  cases step_turn h with
  | host x rest hp hx =>
    obtain ⟨w, hi, hw, hb⟩ := (exec_effect hx).status_kept.resolve_left fun kept => hne kept.outLen
    exact .inl ⟨x, rest, w, hp, hi, hw, hb⟩
  | engine hp he => exact .inr (.inl ⟨hp, (engineStep_effect he).outLen_eq_or_complete.resolve_left hne⟩)
  | reset rest hp => exact .inr (.inr ⟨rest, hp⟩)

/-- A table word that decodes to `i` is a transaction that decodes to `i`, placed before the turns that wait. -/
theorem withFetchWord_of_decodeTableWord {nbits w : Nat} {i : Instr} (h : decodeTableWord nbits w = some i) (s : State) :
    ∃ t, decode t = i ∧ s.withFetchWord nbits w = { s with port := .host t :: s.port } := by
  unfold decodeTableWord decodeBytes at h
  unfold State.withFetchWord
  cases hbytes : transactionOfBytes (tableBytes nbits w) with
  | error e => simp [hbytes] at h
  | ok read =>
    obtain ⟨t, rest⟩ := read
    exact ⟨t, by simpa [hbytes] using h, rfl⟩

/-- Settles O7: a host turn's step, for any waiting turn and for one placed by `withFetchWord`. -/
theorem hostTurnRunsTheDecodedInstruction : Obligations.HostTurnRunsTheDecodedInstruction := by
  unfold Obligations.HostTurnRunsTheDecodedInstruction
  refine ⟨fun s t rest i hp hi => ?_, fun s nbits w i hw => ?_⟩
  · rw [step_of_host_turn hp, hi]
  · obtain ⟨t, rfl, hplaced⟩ := withFetchWord_of_decodeTableWord hw s
    rw [hplaced, step_host_turn]

end Sys2Proof.Machine

/-! ### The start of a command -/

namespace Sys2Proof.Machine

/-- Settles O29: the busy gate, then the `START` bit. -/
theorem startIsAcceptedOnlyWhenIdle : Obligations.StartIsAcceptedOnlyWhenIdle := by
  unfold Obligations.StartIsAcceptedOnlyWhenIdle
  intro s w
  rw [exec_wrCtrl]
  refine ⟨hostWrite_busy, fun hb hw => ?_, fun hb hw => ?_⟩
  · exact (hostWrite_idle hb).trans (congrArg Host.Outcome.next (if_neg (ne_true_of_eq_false hw)))
  · exact (hostWrite_idle hb).trans (congrArg Host.Outcome.next (if_pos hw))

/-! ### VALIDATE -/

theorem width_eq (c : BitVec 2) : width c = 8 * 2 ^ c.toNat := Nat.shiftLeft_eq 8 c.toNat

theorem toNat_lt_one_iff (w : Word) : w.toNat < 1 ↔ w = 0 := by
  rw [Nat.lt_one_iff, ← BitVec.toNat_inj]; rfl

/-- The checks as 41_repack_command.md R99 to R104 put them: each has to hold, and the first that does not is named. -/
theorem failedCheck_eq (s : State) : failedCheck s =
    if ¬ (s.bitsIn ≠ 0 ∧ s.bitsOut ≠ 0 ∧ s.bitsLimit ≠ 0) then some .invalidParameter
    else if ¬ s.bitsIn.toNat ≤ 8 * 2 ^ s.srcWc.toNat then some .sourceWidthExceeded
    else if ¬ s.bitsOut.toNat ≤ 8 * 2 ^ s.dstWc.toNat then some .destWidthExceeded
    else if ¬ s.bitsLimit.toNat % s.bitsOut.toNat = 0 then some .limitNotAligned
    else if ¬ s.srcLen.toNat ≤ s.config.srcDepth.toNat then some .sourceCapacityExceeded
    else if ¬ s.bitsLimit.toNat / s.bitsOut.toNat ≤ s.config.dstDepth.toNat then some .destCapacityExceeded
    else none := by
  simp only [failedCheck, width_eq, outputLength_toNat, toNat_lt_one_iff, Nat.not_le, ne_eq, not_and_or, not_not]

theorem engineStep_of_failedCheck {s : State} {e : ErrorCode} (hph : s.phase = .validate) (h : failedCheck s = some e) :
    engineStep s = .next (s.raiseError e) :=
  (engineStep_of_validate hph).trans (validateStep_fails h)

theorem engineStep_of_checks_pass {s : State} (hph : s.phase = .validate) (h : failedCheck s = none) :
    engineStep s = .next { s with n := outputLength s, clr := 0, phase := .clear } :=
  (engineStep_of_validate hph).trans (validateStep_passes h)

/-- Settles O30: the checks before the failing one hold, so it is the first in the order of R98. -/
theorem validationReportsTheFirstFailure : Obligations.ValidationReportsTheFirstFailure := by
  unfold Obligations.ValidationReportsTheFirstFailure
  intro s hph
  have fails (e : ErrorCode) (h : failedCheck s = some e) : engineStep s = .next (s.raiseError e) :=
    engineStep_of_failedCheck hph h
  have passes (h : failedCheck s = none) := engineStep_of_checks_pass hph h
  simp only [failedCheck_eq, ite_not] at fails passes
  refine ⟨fun h => fails .invalidParameter ?_, fun h1 h => fails .sourceWidthExceeded ?_,
    fun ⟨h1, h2⟩ h => fails .destWidthExceeded ?_, fun ⟨⟨h1, h2⟩, h3⟩ h => fails .limitNotAligned ?_,
    fun ⟨⟨⟨h1, h2⟩, h3⟩, h4⟩ h => fails .sourceCapacityExceeded ?_,
    fun ⟨⟨⟨⟨h1, h2⟩, h3⟩, h4⟩, h5⟩ h => fails .destCapacityExceeded ?_,
    fun ⟨⟨⟨⟨⟨h1, h2⟩, h3⟩, h4⟩, h5⟩, h6⟩ => passes ?_⟩
  · rw [if_neg h]
  · rw [if_pos h1, if_neg (not_and.1 h h1)]
  · rw [if_pos h1, if_pos h2, if_neg (not_and.1 h ⟨h1, h2⟩)]
  · rw [if_pos h1, if_pos h2, if_pos h3, if_neg (not_and.1 h ⟨⟨h1, h2⟩, h3⟩)]
  · rw [if_pos h1, if_pos h2, if_pos h3, if_pos h4, if_neg (not_and.1 h ⟨⟨⟨h1, h2⟩, h3⟩, h4⟩)]
  · rw [if_pos h1, if_pos h2, if_pos h3, if_pos h4, if_pos h5, if_neg (not_and.1 h ⟨⟨⟨⟨h1, h2⟩, h3⟩, h4⟩, h5⟩)]
  · rw [if_pos h1, if_pos h2, if_pos h3, if_pos h4, if_pos h5, if_pos h6]

/-- Settles O32: `BUSY` is a flag (O25), and an accepted `START`, which also writes it, is accepted only when idle. -/
theorem onlyTheEngineOrResetEndsACommand : Obligations.OnlyTheEngineOrResetEndsACommand := by
  unfold Obligations.OnlyTheEngineOrResetEndsACommand
  intro s t hb h ht
  have hne : t.busy ≠ s.busy := by rw [hb, ht]; exact Bool.false_ne_true
  rcases flagsChangeOnlyAtStartEndAndReset s t h (.inl hne) with ⟨_, _, _, _, _, _, hidle⟩ | hended
  · rw [hb] at hidle; cases hidle
  · exact hended

/-! ### The end of a command -/

/-- Before its last step a command that passes validation is in one of the phases after IDLE, with the flags and the
output length it was accepted with (41_repack_command.md R108). -/
theorem CommandReady.run_unfinished {s : State} (h : CommandReady s) {j : Nat} (hj : j < commandSteps s) :
    ∃ u, engineRun j s = .next u ∧ StatusKept s u ∧ u.phase ≠ .idle := by
  have hsteps : j < 1 + (outputLength s).toNat + s.bitsLimit.toNat + 1 := hj
  rcases Nat.eq_zero_or_pos j with rfl | hpos
  · exact ⟨s, rfl, .refl s, by simp [h.accepted]⟩
  rcases Nat.lt_or_ge j (1 + (outputLength s).toNat) with hclear | hclear
  · obtain ⟨i, rfl⟩ := Nat.exists_eq_add_of_le hpos
    obtain ⟨c, dst, -, hrun, -⟩ := h.run_clearing (Nat.add_lt_add_iff_left.1 hclear)
    exact ⟨_, hrun, ⟨rfl, rfl, rfl, rfl⟩, nofun⟩
  obtain ⟨i, rfl⟩ := Nat.exists_eq_add_of_le hclear
  rcases Nat.lt_or_eq_of_le (Nat.le_of_lt_succ hsteps) with hcopy | hlast
  · obtain ⟨p, dst, -, hrun, -⟩ := h.run_copying (Nat.add_lt_add_iff_left.1 hcopy)
    exact ⟨_, hrun, ⟨rfl, rfl, rfl, rfl⟩, nofun⟩
  · obtain ⟨dst, hrun, -⟩ := h.run_completing
    exact ⟨completingAt s dst, by rwa [hlast], ⟨rfl, rfl, rfl, rfl⟩, nofun⟩

theorem commandSteps_eq (s : State) :
    commandSteps s = 1 + s.bitsLimit.toNat / s.bitsOut.toNat + s.bitsLimit.toNat + 1 := by
  rw [commandSteps, outputLength_toNat]

/-- Settles O43: the states before the last step are those of the phases VALIDATE, CLEAR, COPY and COMPLETE, and the last
step is COMPLETE's. -/
theorem commandEndsAfterItsSteps : Obligations.CommandEndsAfterItsSteps := by
  unfold Obligations.CommandEndsAfterItsSteps
  intro s h
  rw [← commandSteps_eq]
  refine ⟨?_, fun j hj => ?_⟩
  · obtain ⟨dst, hrun, -⟩ := h.run_succeeded
    exact ⟨succeeded s dst, hrun, rfl, rfl, rfl, rfl, rfl⟩
  · obtain ⟨u, hrun, hkept, hph⟩ := h.run_unfinished hj
    exact ⟨u, hrun, hkept.busy, hph, hkept.outLen⟩

/-! ### A `RUN` under a fair schedule -/

/-- The first steps of a run that answers a state answer one, too. -/
theorem engineRun_split {j k : Nat} {s v : State} (h : engineRun (j + k) s = .next v) :
    ∃ u, engineRun j s = .next u ∧ engineRun k u = .next v := by
  induction j generalizing s with
  | zero => exact ⟨s, rfl, by rwa [Nat.zero_add] at h⟩
  | succ j ih =>
    rw [Nat.succ_add] at h
    obtain ⟨t, hstep, hrun⟩ := engineRun_succ h
    obtain ⟨u, hu, hv⟩ := ih hrun
    exact ⟨u, by simpa only [engineRun, hstep] using hu, hv⟩

/-- After `k` engine steps from `s` the command has ended. -/
def EndsWithin (k : Nat) (s : State) : Prop := ∃ v, engineRun k s = .next v ∧ v.phase = .idle ∧ v.busy = false

theorem EndsWithin.pos_of_busy {k : Nat} {s : State} (h : EndsWithin k s) (hb : s.busy = true) : 0 < k := by
  obtain ⟨v, hrun, -, hidle⟩ := h
  refine Nat.pos_of_ne_zero fun hk => ?_
  subst hk
  cases hrun
  rw [hb] at hidle
  cases hidle

/-- The engine's own steps bring the end nearer, and past it the engine rests. -/
theorem EndsWithin.run {k : Nat} {s : State} (h : EndsWithin k s) (m : Nat) :
    ∃ u, engineRun m s = .next u ∧ EndsWithin (k - m) u := by
  obtain ⟨v, hrun, hph, hb⟩ := h
  rcases Nat.le_total m k with hle | hle
  · rw [← Nat.add_sub_cancel' hle] at hrun
    obtain ⟨u, hu, hv⟩ := engineRun_split hrun
    exact ⟨u, hu, v, hv, hph, hb⟩
  · refine ⟨v, ?_, v, engineRun_of_idle hph _, hph, hb⟩
    rw [← Nat.add_sub_cancel' hle, engineRun_add hrun, engineRun_of_idle hph]

theorem EndsWithin.reply {k : Nat} {s : State} (h : EndsWithin k s) (v : Word) : EndsWithin k (s.reply v) := by
  obtain ⟨t, hrun, hph, hb⟩ := h
  exact ⟨t.reply v, engineRun_outside hrun v, hph, hb⟩

/-- An entry of a fair schedule: the engine takes one or more steps, and nobody else moves. -/
def FairTurns (turns : List Turn) : Prop := turns ≠ [] ∧ ∀ turn ∈ turns, turn = .engine

theorem FairTurns.takeTurns_eq {turns : List Turn} (h : FairTurns turns) (s : State) :
    takeTurns turns s = engineRun turns.length s := by
  conv_lhs => rw [List.eq_replicate_of_mem h.2]
  exact takeTurns_engine _ s

/-- A `POLL` that begins while a command runs ends once the schedule has as many entries as the command has steps to
its end: each entry brings the end at least one step nearer. -/
theorem runScript_poll_ends {schedule : List (List Turn)} {r : HostRun} {k : Nat}
    (hfair : ∀ turns ∈ schedule, FairTurns turns) (hi : r.items = [.poll]) (hb : r.state.busy = true)
    (hk : EndsWithin k r.state) (hlen : k ≤ schedule.length) :
    ∃ r', runScript schedule r = .next r' ∧ r'.items = [] := by
  induction schedule generalizing r k with
  | nil => exact absurd (hk.pos_of_busy hb) (Nat.not_lt.2 hlen)
  | cons turns schedule ih =>
    obtain ⟨hfirst, hlater⟩ := List.forall_mem_cons.1 hfair
    obtain ⟨u, hrun, hu⟩ := hk.run turns.length
    have ht := (hfirst.takeTurns_eq r.state).trans hrun
    rw [runScript_item hi ht (exec_poll u)]
    cases hub : u.busy with
    | true =>
      rw [HostRun.performed_poll_of_busy hub]
      have hnearer : k - turns.length ≤ schedule.length := by
        have := List.length_pos_iff.2 hfirst.1
        rw [List.length_cons] at hlen
        omega
      exact ih hlater hi hub (hu.reply _) hnearer
    | false =>
      rw [HostRun.performed_poll_of_idle hub, runScript_over rfl]
      exact ⟨_, rfl, rfl⟩

/-- An accepted command ends within its steps, or in its VALIDATE step if a check fails. -/
theorem endsWithin_acceptStart {s : State} (hwritten : failedCheck s = none → SourceWritten s) :
    EndsWithin (if failedCheck s = none then commandSteps s else 1) s.acceptStart := by
  cases hc : failedCheck s with
  | none =>
    have hready : CommandReady s.acceptStart := ⟨rfl, hc, hwritten hc⟩
    obtain ⟨dst, hrun, -⟩ := hready.run_succeeded
    exact ⟨_, hrun, rfl, rfl⟩
  | some e =>
    have hstep : engineStep s.acceptStart = .next (s.acceptStart.raiseError e) := engineStep_of_failedCheck rfl hc
    exact ⟨_, engineRun_succ_of_step rfl hstep, rfl, rfl⟩

theorem exec_start_of_idle {s : State} (hb : s.busy = false) :
    exec (decode (wrItem .ctrl 1).nextLine.transaction) s = .next s.acceptStart := by
  have hline : decode (wrItem .ctrl 1).nextLine.transaction = .wrCtrl 1 := decode_line rfl rfl
  rw [hline, exec_wrCtrl, hostWrite_idle hb]
  rfl

/-- Settles O53: the first entry's transaction starts the command, and the entries after it are enough for `POLL`. -/
theorem runEndsUnderAFairSchedule : Obligations.RunEndsUnderAFairSchedule := by
  unfold Obligations.RunEndsUnderAFairSchedule
  intro s schedule hidle hb hwritten hfair hlen
  cases schedule with
  | nil => exact absurd hlen (by simp)
  | cons turns schedule =>
    obtain ⟨hfirst, hlater⟩ := List.forall_mem_cons.1 hfair
    have hrest : takeTurns turns s = .next s := (FairTurns.takeTurns_eq hfirst s).trans (engineRun_of_idle hidle _)
    rw [runScript_item rfl hrest (exec_start_of_idle hb)]
    refine runScript_poll_ends hlater rfl rfl (endsWithin_acceptStart hwritten) ?_
    rw [List.length_cons, Nat.add_comm] at hlen
    exact Nat.le_of_succ_le_succ hlen

end Sys2Proof.Machine

/-! ### The end of a command, and the bits of its result -/

namespace Sys2Proof.Machine

theorem CommandReady.run_end {s t : State} (h : CommandReady s) (ht : engineRun (commandSteps s) s = .next t) :
    ∃ dst, t = succeeded s dst ∧ Filled s (outputLength s).toNat (closedForm s) dst := by
  obtain ⟨dst, hrun, hfill⟩ := h.run_succeeded
  exact ⟨dst, Host.Outcome.next.inj (ht.symm.trans hrun), hfill⟩

/-- Settles O44: the one state the run can end in has its destination buffer filled with the closed form. -/
theorem commandLeavesTheClosedForm : Obligations.CommandLeavesTheClosedForm := by
  unfold Obligations.CommandLeavesTheClosedForm
  intro s t h ht
  obtain ⟨dst, rfl, hfill⟩ := h.run_end ht
  rw [← outputLength_toNat]
  exact ⟨fun k hk => hfill.read_below hk, fun k hk => (hfill k).trans (if_neg (Nat.not_lt.2 hk)), rfl⟩

theorem orBelow_getLsbD (m : Nat) (f : Nat → Word) (b : Nat) :
    (orBelow m f).getLsbD b = true ↔ ∃ j, j < m ∧ (f j).getLsbD b = true := by
  induction m with
  | zero => simp
  | succ m ih => rw [orBelow_succ, BitVec.getLsbD_or, Bool.or_eq_true, ih, Nat.exists_lt_succ_right]

/-- A stream bit, as a word, has bit 0 only (42_bit_copy_engine.md R113). -/
theorem extractBit_streamBit (s : State) (i : Nat) : extractBit (streamBit s i) 0 = streamBit s i := by
  rw [extractBit, BitVec.ushiftRight_zero]
  unfold streamBit
  split
  · rw [BitVec.and_assoc, BitVec.and_self]
  · exact BitVec.zero_and

theorem streamBit_shiftLeft_getLsbD (s : State) (i ls : Nat) {b : Nat} (hb : b < 64) :
    (streamBit s i <<< ls).getLsbD b = (decide (b = ls) && (streamBit s i).getLsbD 0) := by
  have hbit := accumulate_getLsbD 0#64 (streamBit s i) 0 ls hb
  rwa [accumulate, extractBit_streamBit, BitVec.zero_or, BitVec.getLsbD_zero, Bool.false_or] at hbit

/-- An output element has the stream's bit at position `k * bo + j` in the place R111 gives it, and there no other
(42_bit_copy_engine.md R117). -/
theorem closedForm_getLsbD_of_lt {s : State} (hbo : s.bitsOut.toNat ≤ 64) (k : Nat) {j : Nat}
    (hj : j < s.bitsOut.toNat) :
    (closedForm s k).getLsbD (s.bitsOut.toNat - 1 - j) = (streamBit s (k * s.bitsOut.toNat + j)).getLsbD 0 := by
  have hb : s.bitsOut.toNat - 1 - j < 64 := by omega
  rw [Bool.eq_iff_iff, closedForm, orBelow_getLsbD]
  simp only [streamBit_shiftLeft_getLsbD s _ _ hb, Bool.and_eq_true, decide_eq_true_eq]
  constructor
  · rintro ⟨j', hj', hplace, hbit⟩
    obtain rfl : j' = j := by omega
    exact hbit
  · exact fun hbit => ⟨j, hj, rfl, hbit⟩

/-- No bit lies at or above the element's width. -/
theorem closedForm_getLsbD_of_ge {s : State} (k : Nat) {b : Nat} (hb : s.bitsOut.toNat ≤ b) :
    (closedForm s k).getLsbD b = false := by
  rw [← Bool.not_eq_true, closedForm, orBelow_getLsbD]
  rintro ⟨j, hj, hbit⟩
  by_cases h64 : b < 64
  · rw [streamBit_shiftLeft_getLsbD s _ _ h64, Bool.and_eq_true, decide_eq_true_eq] at hbit
    omega
  · rw [BitVec.getLsbD_of_ge _ _ (Nat.not_lt.1 h64)] at hbit
    cases hbit

/-- Read MSB-first, the closed forms are the stream. -/
theorem closedForm_getLsbD_at_position {s : State} (hc : ChecksPass s) (i : Nat) :
    (closedForm s (i / s.bitsOut.toNat)).getLsbD (s.bitsOut.toNat - 1 - i % s.bitsOut.toNat) =
      (streamBit s i).getLsbD 0 := by
  rw [closedForm_getLsbD_of_lt hc.bitsOut_le_64 _ (Nat.mod_lt _ hc.bitsOut_pos), Nat.div_add_mod']

theorem closedForm_lt (s : State) (k : Nat) : (closedForm s k).toNat < 2 ^ s.bitsOut.toNat :=
  Nat.lt_pow_two_of_testBit _ fun _ hb => (BitVec.testBit_toNat _).trans (closedForm_getLsbD_of_ge k hb)

/-- The stream's bit at a position inside the source (42_bit_copy_engine.md R110, R113). -/
theorem streamBit_getLsbD_of_lt {s : State} (hc : ChecksPass s) {i : Nat} (hi : i < s.srcLen.toNat * s.bitsIn.toNat)
    {x : Word} (hx : s.src.read (i / s.bitsIn.toNat) = some x) :
    (streamBit s i).getLsbD 0 = x.getLsbD (s.bitsIn.toNat - 1 - i % s.bitsIn.toNat) := by
  unfold streamBit
  rw [if_pos ((Nat.div_lt_iff_lt_mul hc.bitsIn_pos).2 hi), hx]
  simp

/-- Beyond the source the stream's bits are 0 (42_bit_copy_engine.md R112). -/
theorem streamBit_getLsbD_of_ge {s : State} (hc : ChecksPass s) {i : Nat} (hi : s.srcLen.toNat * s.bitsIn.toNat ≤ i) :
    (streamBit s i).getLsbD 0 = false := by
  unfold streamBit
  rw [if_neg (Nat.not_lt.2 ((Nat.le_div_iff_mul_le hc.bitsIn_pos).2 hi))]
  exact BitVec.getLsbD_zero

/-- Settles O45: each output element is a closed form, whose bits are the stream's. -/
theorem outputIsTheLogicalBitStream : Obligations.OutputIsTheLogicalBitStream := by
  unfold Obligations.OutputIsTheLogicalBitStream
  intro s t h ht
  have hc := h.checks
  obtain ⟨dst, rfl, hfill⟩ := h.run_end ht
  refine ⟨outputLength_toNat s, fun k hk => ⟨_, hfill.read_below hk, closedForm_lt s k⟩, fun i hi => ?_⟩
  refine ⟨_, hfill.read_below (hc.dstElement_lt hi), fun x hlt hx => ?_, fun hge => ?_⟩
  · exact (closedForm_getLsbD_at_position hc i).trans (streamBit_getLsbD_of_lt hc hlt hx)
  · exact (closedForm_getLsbD_at_position hc i).trans (streamBit_getLsbD_of_ge hc hge)

/-! ### Repacking a result back -/

/-- A command whose source is another command's result continues that command's stream. -/
theorem streamBit_getLsbD_of_repacked {s s' : State} (hc : ChecksPass s) (hc' : ChecksPass s')
    (hbi : s'.bitsIn = s.bitsOut) (hlen : s'.srcLen = outputLength s)
    (hsrc : ∀ k, k < (outputLength s).toNat → s'.src.read k = some (closedForm s k))
    {i : Nat} (hi : i < s.bitsLimit.toNat) : (streamBit s' i).getLsbD 0 = (streamBit s i).getLsbD 0 := by
  have hinside : i < s'.srcLen.toNat * s'.bitsIn.toNat := by rwa [hlen, hbi, hc.length_mul]
  have hread : s'.src.read (i / s'.bitsIn.toNat) = some (closedForm s (i / s.bitsOut.toNat)) := by
    rw [hbi]; exact hsrc _ (hc.dstElement_lt hi)
  rw [streamBit_getLsbD_of_lt hc' hinside hread, hbi, closedForm_getLsbD_at_position hc]

theorem and_lowBits_getLsbD (x : Word) (w b : Nat) :
    (x &&& BitVec.ofNat 64 (2 ^ w - 1)).getLsbD b = (decide (b < w) && x.getLsbD b) := by
  rw [BitVec.getLsbD_and, BitVec.getLsbD_ofNat, Nat.testBit_two_pow_sub_one]
  by_cases hb : b < 64
  · simp [hb, Bool.and_comm]
  · simp [BitVec.getLsbD_of_ge x b (Nat.not_lt.1 hb)]

/-- Put together again in the source's own width, the stream gives the source's elements without their bits at or above
that width (42_bit_copy_engine.md R121). -/
theorem closedForm_of_sameWidth {s s' : State} (hc : ChecksPass s) (hbo : s'.bitsOut = s.bitsIn) {k : Nat}
    (hk : k < s.srcLen.toNat) {x : Word} (hx : s.src.read k = some x)
    (hbits : ∀ i, i < s.srcLen.toNat * s.bitsIn.toNat → (streamBit s' i).getLsbD 0 = (streamBit s i).getLsbD 0) :
    closedForm s' k = x &&& BitVec.ofNat 64 (2 ^ s.bitsIn.toNat - 1) := by
  refine BitVec.eq_of_getLsbD_eq fun b _ => ?_
  rw [and_lowBits_getLsbD]
  by_cases hb : b < s.bitsIn.toNat
  · obtain ⟨j, hj, rfl⟩ : ∃ j, j < s.bitsIn.toNat ∧ b = s.bitsIn.toNat - 1 - j :=
      ⟨s.bitsIn.toNat - 1 - b, by omega, by omega⟩
    obtain ⟨hdiv, hmod⟩ := (position_eq_iff (k := k) hj).1 rfl
    have hin : k * s.bitsIn.toNat + j < s.srcLen.toNat * s.bitsIn.toNat :=
      (Nat.div_lt_iff_lt_mul hc.bitsIn_pos).1 (hdiv ▸ hk)
    have hplace := closedForm_getLsbD_of_lt (s := s') (hbo ▸ hc.bitsIn_le_64) k (hbo ▸ hj)
    rw [hbo] at hplace
    rw [hplace, hbits _ hin, streamBit_getLsbD_of_lt hc hin (hdiv ▸ hx), ← hmod, decide_eq_true hb, Bool.true_and]
  · rw [closedForm_getLsbD_of_ge k (hbo ▸ Nat.not_lt.1 hb), decide_eq_false hb, Bool.false_and]

/-- Settles O47: the second command's stream is the first's, put together again in elements of the source's own width. -/
theorem roundTripRestoresTheSource : Obligations.RoundTripRestoresTheSource := by
  unfold Obligations.RoundTripRestoresTheSource
  intro s t s' t' h ht hfits h' ht' hlen hsrc hbi hbo hbl k x hk hx
  have hc := h.checks
  obtain ⟨dst, rfl, hfill⟩ := h.run_end ht
  obtain ⟨dst', rfl, hfill'⟩ := h'.run_end ht'
  have hk' : k < (outputLength s').toNat := by
    rwa [outputLength_toNat, hbl, hbo, Nat.mul_div_cancel _ hc.bitsIn_pos]
  have hread (k : Nat) (hk : k < (outputLength s).toNat) := (hsrc k hk).trans (hfill.read_below hk)
  have hbits (i : Nat) (hi : i < s.srcLen.toNat * s.bitsIn.toNat) :=
    streamBit_getLsbD_of_repacked hc h'.checks hbi hlen hread (hi.trans_le hfits)
  exact (hfill'.read_below hk').trans (congrArg some (closedForm_of_sameWidth hc hbo hk hx hbits))

/-! ### The engine's steps, one by one -/

/-- Settles O34: the step writes 0 at `clr`, and the last one is told by `clr + 1 = n`. -/
theorem clearStepZeroesOneEntry : Obligations.ClearStepZeroesOneEntry := by
  unfold Obligations.ClearStepZeroesOneEntry
  intro s hph hr hlt
  have hstep := (engineStep_of_clear hph).trans (clearStep_eq hr hlt)
  have hzero := Memory.read_write_same s.clr.toNat 0 s.dst
  have hothers (k : Nat) (hk : k ≠ s.clr.toNat) := Memory.read_write_other hk 0 s.dst
  by_cases hlast : s.clr.toNat + 1 = s.n.toNat
  · rw [if_pos ((succ_eq_iff hlt).2 hlast)] at hstep
    exact ⟨_, hstep, rfl, hzero, hothers, fun _ => ⟨rfl, rfl⟩, fun hmore => absurd hlast hmore⟩
  · rw [if_neg (mt (succ_eq_iff hlt).1 hlast)] at hstep
    exact ⟨_, hstep, rfl, hzero, hothers, fun h => absurd h hlast, fun _ => ⟨rfl, hph⟩⟩

/-- A shift amount `w - i % w - 1` stays inside a field of `w` bits (42_bit_copy_engine.md R110, R111). -/
theorem fieldShift_le {w : Nat} (i : Nat) : w - i % w - 1 ≤ w - 1 := Nat.sub_le_sub_right (Nat.sub_le _ _) 1

theorem dstElement_le {bo bl i : Nat} (halign : bl % bo = 0) (hi : i < bl) :
    dstElement bo i ≤ bl / bo - 1 :=
  Nat.le_sub_one_of_lt (Nat.div_lt_div_of_lt_of_dvd (Nat.dvd_of_mod_eq_zero halign) hi)

/-- A destination element and a shift amount name one position (42_bit_copy_engine.md R114). -/
theorem position_unique {bo i j : Nat} (hbo : 1 ≤ bo) (hd : dstElement bo i = dstElement bo j)
    (hls : dstShift bo i = dstShift bo j) : i = j := by
  have hi : i % bo < bo := Nat.mod_lt _ hbo
  have hj : j % bo < bo := Nat.mod_lt _ hbo
  have hmod : i % bo = j % bo := by unfold dstShift at hls; omega
  have hdiv : i / bo = j / bo := hd
  calc i = i / bo * bo + i % bo := (Nat.div_add_mod' i bo).symm
    _ = j / bo * bo + j % bo := by rw [hdiv, hmod]
    _ = j := Nat.div_add_mod' j bo

/-- Settles O35, with the bounds of the two mappings and the uniqueness of a position's place. -/
theorem positionsMapInsideTheFields : Obligations.PositionsMapInsideTheFields := by
  unfold Obligations.PositionsMapInsideTheFields
  have le_63 {w : Nat} (i : Nat) (h64 : w ≤ 64) : w - i % w - 1 ≤ 63 :=
    (fieldShift_le i).trans (Nat.sub_le_sub_right h64 1)
  exact ⟨fun bi i _ h64 => ⟨rfl, rfl, fieldShift_le i, le_63 i h64⟩,
    fun bo bl i _ h64 halign hi => ⟨rfl, rfl, fieldShift_le i, le_63 i h64, dstElement_le halign hi⟩,
    fun bo i j => position_unique⟩

/-- The premise of a COPY step as its rule puts it. -/
theorem sourceValue_eq_some {s : State} {k : Nat} {v : Word}
    (h : if k < s.srcLen.toNat then s.src.read k = some v else v = 0) : sourceValue s k = some v := by
  by_cases hk : k < s.srcLen.toNat
  · rw [if_pos hk] at h; rw [sourceValue_inside hk, h]
  · rw [if_neg hk] at h; rw [sourceValue_beyond (Nat.not_lt.1 hk), h]

/-- The bit that a COPY step ORs in, at the places the mapper gives position `i` (42_bit_copy_engine.md R110, R111). -/
theorem accumulate_mapped_getLsbD (old v : Word) (bi bo i : Nat) {b : Nat} (hb : b < 64) :
    (accumulate old (extractBit v (srcShift bi i)) (dstShift bo i)).getLsbD b =
      (old.getLsbD b || (decide (b = bo - 1 - i % bo) && v.getLsbD (bi - 1 - i % bi))) := by
  rw [accumulate_getLsbD _ _ _ _ hb, srcShift, dstShift, Nat.sub_right_comm bo, Nat.sub_right_comm bi]

/-- Settles O36: the step writes its one entry with the source bit accumulated, and the last one is told by
`pos + 1 = BITS_LIMIT`. -/
theorem copyStepOrsOneBit : Obligations.CopyStepOrsOneBit := by
  unfold Obligations.CopyStepOrsOneBit
  intro s v old hph hr hlt hv hold
  have hstep := (engineStep_of_copy hph).trans (copyStep_eq hr hlt (sourceValue_eq_some hv) hold)
  have hnew : (copiedDst s v old).read (dstElement s.bitsOut.toNat s.pos.toNat) = some _ := Memory.read_write_same _ _ _
  have hbits (b : Nat) (hb : b < 64) := accumulate_mapped_getLsbD old v s.bitsIn.toNat s.bitsOut.toNat s.pos.toNat hb
  have hothers (k : Nat) (hk : k ≠ s.pos.toNat / s.bitsOut.toNat) := copiedDst_read_other s v old hk
  by_cases hlast : s.pos.toNat + 1 = s.bitsLimit.toNat
  · rw [copied_last v old ((succ_eq_iff hlt).2 hlast)] at hstep
    exact ⟨_, _, hstep, rfl, hnew, hbits, hothers, fun _ => rfl, fun hmore => absurd hlast hmore⟩
  · rw [copied_more v old (mt (succ_eq_iff hlt).1 hlast)] at hstep
    exact ⟨_, _, hstep, rfl, hnew, hbits, hothers, fun h => absurd h hlast, fun _ => hph⟩

/-- Settles O38: the rule of the phase COMPLETE. -/
theorem completeStepPublishesTheResult : Obligations.CompleteStepPublishesTheResult := by
  unfold Obligations.CompleteStepPublishesTheResult
  exact fun _ => engineStep_of_complete

/-! ### The ways to stop -/

/-- A host transaction answers a next state unless it is an idle window read of an entry that exists and is not written
(70_reset_and_hazards.md R136). -/
theorem exec_next_or_unwritten (i : Instr) (s : State) :
    (∃ t, exec i s = .next t) ∨
    (i = .rdSrcData ∧ s.busy = false ∧ windowValue s.config.srcDepth s.srcIdx s.src = none) ∨
    (i = .rdDstData ∧ s.busy = false ∧ windowValue s.config.dstDepth s.dstIdx s.dst = none) := by
  cases hb : s.busy with
  | true =>
    obtain ⟨v, hv⟩ := exec_of_busy i hb
    exact .inl ⟨_, hv⟩
  | false =>
    cases i with
    | rdSrcData =>
      cases hw : windowValue s.config.srcDepth s.srcIdx s.src with
      | some v => exact .inl ⟨_, exec_rdSrcData_of_idle hb hw⟩
      | none => exact .inr (.inl ⟨rfl, rfl, rfl⟩)
    | rdDstData =>
      cases hw : windowValue s.config.dstDepth s.dstIdx s.dst with
      | some v => exact .inl ⟨_, exec_rdDstData_of_idle hb hw⟩
      | none => exact .inr (.inr ⟨rfl, rfl, rfl⟩)
    | _ => exact .inl ⟨_, rfl⟩

/-- A COPY step with its premises finds its destination entry written, so it can stop at its source entry only, which
`SRC_LEN` keeps inside the buffer (20_memory.md R45; 42_bit_copy_engine.md R115). -/
theorem Progress.copyStep_next_or_unwritten {s : State} (h : Progress s) (hph : s.phase = .copy) :
    (∃ t, copyStep s = .next t) ∨
    ∃ k, copyStep s = .fault (.unwrittenSrc k) ∧ k < s.config.srcDepth.toNat ∧ s.src.read k = none := by
  obtain ⟨hc, hn⟩ := (engineReady_iff s).1 h.ready
  obtain ⟨hlt, hcopied⟩ := h.copied hph
  cases hv : sourceValue s (srcElement s.bitsIn.toNat s.pos.toNat) with
  | some v => exact .inl ⟨_, copyStep_eq h.ready hlt hv (hcopied _ (hn ▸ hc.dstElement_lt hlt))⟩
  | none =>
    refine .inr ⟨_, copyStep_unwrittenSrc h.ready hlt hv, ?_⟩
    rcases Nat.lt_or_ge (srcElement s.bitsIn.toNat s.pos.toNat) s.srcLen.toNat with hin | hout
    · exact ⟨hin.trans_le hc.source_fits, sourceValue_inside hin ▸ hv⟩
    · rw [sourceValue_beyond hout] at hv
      cases hv

/-- The engine of a state that meets the invariant stops at an unwritten source entry only. -/
theorem Inv.engineStep_next_or_unwritten {s : State} (h : Inv s) :
    (∃ t, engineStep s = .next t) ∨
    ∃ k, engineStep s = .fault (.unwrittenSrc k) ∧ k < s.config.srcDepth.toNat ∧ s.src.read k = none := by
  cases hph : s.phase with
  | idle => exact .inl ⟨_, engineStep_of_idle hph⟩
  | validate =>
    cases hc : failedCheck s with
    | some e => exact .inl ⟨_, engineStep_of_failedCheck hph hc⟩
    | none => exact .inl ⟨_, engineStep_of_checks_pass hph hc⟩
  | clear =>
    have hp := h.progress (.inl hph)
    exact .inl ⟨_, (engineStep_of_clear hph).trans (clearStep_eq hp.ready (hp.cleared hph).1)⟩
  | copy =>
    rw [engineStep_of_copy hph]
    exact (h.progress (.inr (.inl hph))).copyStep_next_or_unwritten hph
  | complete => exact .inl ⟨_, engineStep_of_complete hph⟩

theorem step_of_reset_turn {s : State} {rest : List Turn} (h : s.port = .reset :: rest) :
    step s = .next { s with port := rest }.assertReset := by
  simp only [step, takeTurn_cons h]

/-- Settles O41, turn by turn: a host transaction stops at an unwritten window entry only, an engine step at an
unwritten source entry only, and reset never. -/
theorem onlyUnwrittenReadsStopTheMachine : Obligations.OnlyUnwrittenReadsStopTheMachine := by
  unfold Obligations.OnlyUnwrittenReadsStopTheMachine
  intro s hs
  cases hp : s.port with
  | nil =>
    rw [step_of_no_turn hp]
    exact hs.engineStep_next_or_unwritten.imp_right .inl
  | cons turn rest =>
    cases turn with
    | engine =>
      rw [step_of_engine_turn hp]
      exact (hs.outside s.rdata rest).engineStep_next_or_unwritten.imp_right .inl
    | reset => exact .inl ⟨_, step_of_reset_turn hp⟩
    | host x =>
      rw [step_of_host_turn hp]
      obtain hnext | ⟨hi, hb, hnone⟩ | ⟨hi, hb, hnone⟩ :=
        exec_next_or_unwritten (decode x) { s with port := rest }
      · exact .inl hnext
      · rw [hi]
        exact .inr (.inl ⟨_, exec_rdSrcData_unwritten hb hnone, windowValue_none_iff.1 hnone⟩)
      · refine .inr (.inr ⟨x, rest, rfl, hi, hb, (windowValue_none_iff.1 hnone).2, ?_⟩)
        rw [hi]
        exact exec_rdDstData_unwritten hb hnone

end Sys2Proof.Machine

/-! ### Host transactions complete, and a failed command leaves the block as it was -/

namespace Sys2Proof.Machine

/-- Settles O24: a transaction that does not answer a next state is an idle window read of an entry without a value. -/
theorem hostTransactionsAlwaysComplete : Obligations.HostTransactionsAlwaysComplete := by
  unfold Obligations.HostTransactionsAlwaysComplete
  intro i s
  obtain hnext | ⟨rfl, hb, hnone⟩ | ⟨rfl, hb, hnone⟩ := exec_next_or_unwritten i s
  · exact .inl hnext
  · obtain ⟨hin, hread⟩ := windowValue_none_iff.1 hnone
    exact .inr (.inl ⟨rfl, hb, hin, hread, exec_rdSrcData_unwritten hb hnone⟩)
  · obtain ⟨hin, hread⟩ := windowValue_none_iff.1 hnone
    exact .inr (.inr ⟨rfl, hb, hin, hread, exec_rdDstData_unwritten hb hnone⟩)

/-- No check looks at what an accepted `START` writes. -/
theorem failedCheck_acceptStart (s : State) : failedCheck s.acceptStart = failedCheck s := rfl

/-- The error of a command started from IDLE puts `BUSY` and the phase back (60_exceptions.md R126). -/
theorem raiseError_acceptStart_of_idle {s : State} (hidle : s.phase = .idle) (hb : s.busy = false) (e : ErrorCode) :
    s.acceptStart.raiseError e = { s with ecode := e.code, done := true, outLen := 0 } := by
  cases s
  cases hidle
  cases hb
  rfl

/-- Settles O31: an accepted `START` writes nothing that the checks look at, so the VALIDATE step fails with the same
error and takes back the two writes that are not of `DONE`, `ECODE` and `OUT_LEN`. -/
theorem failedCommandChangesOnlyStatus : Obligations.FailedCommandChangesOnlyStatus := by
  unfold Obligations.FailedCommandChangesOnlyStatus
  intro s u w e hidle hb hw hfail hstart
  obtain ⟨-, -, haccept⟩ := startIsAcceptedOnlyWhenIdle s w
  obtain rfl : s.acceptStart = u := Host.Outcome.next.inj ((haccept hb hw).symm.trans hstart)
  refine ⟨acceptStart_busy s, ?_⟩
  rw [engineStep_of_failedCheck rfl ((failedCheck_acceptStart s).trans hfail),
    raiseError_acceptStart_of_idle hidle hb]

end Sys2Proof.Machine

/-! ### Reset, and a COPY step at an unwritten source entry -/

namespace Sys2Proof.Machine

/-- What a reset writes is as after reset, whatever the outside world holds: `rdata` and `port` are no register, and an
empty buffer has no entry to read (70_reset_and_hazards.md R135, R136). -/
theorem resetOf_asAfterReset (c : Config) (rdata : Word) (port : List Turn) :
    AsAfterReset { State.resetOf c with rdata, port } where
  flags := ⟨resetOf_busy c, resetOf_done c, resetOf_ecode c⟩
  cfg := ⟨resetOf_srcWc c, resetOf_dstWc c⟩
  bits := ⟨resetOf_bitsIn c, resetOf_bitsOut c, resetOf_bitsLimit c⟩
  lengths := ⟨resetOf_srcLen c, resetOf_outLen c⟩
  indices := ⟨resetOf_srcIdx c, resetOf_dstIdx c⟩
  phase_idle := resetOf_phase c
  buffers_unwritten k := ⟨Memory.read_nil k, Memory.read_nil k⟩

/-- Settles O9: the turn answers the reset state of the same depths, with `rdata` and the other turns as they were. -/
theorem resetTurnRestoresResetState : Obligations.ResetTurnRestoresResetState := by
  unfold Obligations.ResetTurnRestoresResetState
  intro s rest hport
  exact ⟨_, step_of_reset_turn hport, resetOf_asAfterReset s.config s.rdata rest, rfl, rfl, rfl⟩

/-- Settles O10: the reset state of every block is the case `rdata = 0` with no turn waiting, and `State.reset` is that
of the depths of log entry 5. -/
theorem resetStateIsAsAfterReset : Obligations.ResetStateIsAsAfterReset := by
  unfold Obligations.ResetStateIsAsAfterReset
  have hreset (c : Config) : AsAfterReset (State.resetOf c) := resetOf_asAfterReset c 0 []
  exact ⟨fun c => ⟨hreset c, resetOf_config c, resetOf_port c⟩, hreset Config.sixteen⟩

/-- Settles O37: inside the source length the source value is the entry itself, so an entry not written gives the COPY
step none. -/
theorem copyStepFaultsOnUnwrittenSource : Obligations.CopyStepFaultsOnUnwrittenSource := by
  unfold Obligations.CopyStepFaultsOnUnwrittenSource
  intro s hph hr hlt hin hread
  have hnone : sourceValue s (srcElement s.bitsIn.toNat s.pos.toNat) = none := (sourceValue_inside hin).trans hread
  exact (engineStep_of_copy hph).trans (copyStep_unwrittenSrc hr hlt hnone)

end Sys2Proof.Machine
